-- ==== Sys2Proof/Word.lean ====
section
/-! DEFINITION. The word types of the datapath (00_scope.md R8, R9) and their byte order (R54, R155). -/

namespace Sys2Proof

/-- A byte of the message memory or of the padded stream (20_memory.md R50). -/
abbrev Byte := BitVec 8

/-- A datapath word or a register word: 32 bits, unsigned (00_scope.md R8, R10). -/
abbrev Word := BitVec 32

/-- A 64-bit value: MSG_LEN, the block counter, the length field (00_scope.md R10). -/
abbrev DWord := BitVec 64

end Sys2Proof
end

