-- ==== Sys2Proof/Machine/Rom.lean ====
section
/-! DEFINITION. The constants of the core (10_state.md): the initial chaining value (R22), the ROMs K (R30)
and R (R31), the identification word (R36), and the type of a chaining value. -/

namespace Sys2Proof.Machine

/-- Four 32-bit words in the order A, B, C, D: the accumulator (R20), the snapshot (R23) and the chaining
value H of the compression function (R177) have this type. -/
structure Chain where
  a : Word
  b : Word
  c : Word
  d : Word
  deriving DecidableEq, Repr

/-- The initial chaining value (R22). -/
def iv : Chain := ⟨0x67452301#32, 0xefcdab89#32, 0x98badcfe#32, 0x10325476#32⟩

/-- The identification word, constant (R2, R36). -/
def idWord : Word := 0x4D443501#32

/-- K[0..15], read by the rounds of kind F (R30). -/
def kRomF : Vector Word 16 :=
  #v[0xd76aa478#32, 0xe8c7b756#32, 0x242070db#32, 0xc1bdceee#32,
     0xf57c0faf#32, 0x4787c62a#32, 0xa8304613#32, 0xfd469501#32,
     0x698098d8#32, 0x8b44f7af#32, 0xffff5bb1#32, 0x895cd7be#32,
     0x6b901122#32, 0xfd987193#32, 0xa679438e#32, 0x49b40821#32]

/-- K[16..31], read by the rounds of kind G (R30). -/
def kRomG : Vector Word 16 :=
  #v[0xf61e2562#32, 0xc040b340#32, 0x265e5a51#32, 0xe9b6c7aa#32,
     0xd62f105d#32, 0x02441453#32, 0xd8a1e681#32, 0xe7d3fbc8#32,
     0x21e1cde6#32, 0xc33707d6#32, 0xf4d50d87#32, 0x455a14ed#32,
     0xa9e3e905#32, 0xfcefa3f8#32, 0x676f02d9#32, 0x8d2a4c8a#32]

/-- K[32..47], read by the rounds of kind H (R30). -/
def kRomH : Vector Word 16 :=
  #v[0xfffa3942#32, 0x8771f681#32, 0x6d9d6122#32, 0xfde5380c#32,
     0xa4beea44#32, 0x4bdecfa9#32, 0xf6bb4b60#32, 0xbebfbc70#32,
     0x289b7ec6#32, 0xeaa127fa#32, 0xd4ef3085#32, 0x04881d05#32,
     0xd9d4d039#32, 0xe6db99e5#32, 0x1fa27cf8#32, 0xc4ac5665#32]

/-- K[48..63], read by the rounds of kind I (R30). -/
def kRomI : Vector Word 16 :=
  #v[0xf4292244#32, 0x432aff97#32, 0xab9423a7#32, 0xfc93a039#32,
     0x655b59c3#32, 0x8f0ccc92#32, 0xffeff47d#32, 0x85845dd1#32,
     0x6fa87e4f#32, 0xfe2ce6e0#32, 0xa3014314#32, 0x4e0811a1#32,
     0xf7537e82#32, 0xbd3af235#32, 0x2ad7d2bb#32, 0xeb86d391#32]

/-- The bits i[5:4] of a round index: the round kind (30_encoding.md R80). -/
def roundKind (i : BitVec 6) : BitVec 2 := i.extractLsb' 4 2

/-- The bits i[3:0] of a round index: the position in its group (R80, R81). -/
def roundPos (i : BitVec 6) : BitVec 4 := i.extractLsb' 0 4

/-- Element p of a group of sixteen. -/
def atPos (v : Vector Word 16) (p : BitVec 4) : Word := v[p.toNat]'p.isLt

/-- The round-constant ROM K[i] (R30). -/
def kRom (i : BitVec 6) : Word :=
  if roundKind i = 0#2 then atPos kRomF (roundPos i)
  else if roundKind i = 1#2 then atPos kRomG (roundPos i)
  else if roundKind i = 2#2 then atPos kRomH (roundPos i)
  else atPos kRomI (roundPos i)

/-- One cycle of four rotation amounts, selected by i[1:0] (R31, R81). -/
def cycle4 (r0 r1 r2 r3 : Nat) (i : BitVec 6) : Nat :=
  let q := i.toNat % 4
  if q = 0 then r0 else if q = 1 then r1 else if q = 2 then r2 else r3

/-- The rotation-amount ROM R[i] = S[i div 16][i mod 4] (R31). -/
def rRom (i : BitVec 6) : Nat :=
  if roundKind i = 0#2 then cycle4 7 12 17 22 i
  else if roundKind i = 1#2 then cycle4 5 9 14 20 i
  else if roundKind i = 2#2 then cycle4 4 11 16 23 i
  else cycle4 6 10 15 21 i

end Sys2Proof.Machine
end

