-- ==== Sys2Proof/Machine/Alu.lean ====
section
/-! DEFINITION. The 32-bit ALU, the four round functions and the round sum (40_alu.md), word selection and
word assembly (42_block_scheduler.md R154, R155), and BSWAP32 (44_finalization.md R190). No operation writes
a flag or raises an exception (R29, R106). -/

namespace Sys2Proof.Machine

/-- ADD32 (R100): the carry out of bit 31 is discarded. -/
def add32 (x y : Word) : Word := x + y

/-- AND32 (R101). -/
def and32 (x y : Word) : Word := x &&& y

/-- OR32 (R102). -/
def or32 (x y : Word) : Word := x ||| y

/-- XOR32 (R103). -/
def xor32 (x y : Word) : Word := x ^^^ y

/-- NOT32 (R104). -/
def not32 (x : Word) : Word := ~~~x

/-- ROTL32 (R105), for every amount n as rotl32(x, n mod 32) (92 D24). -/
def rotl32 (x : Word) (n : Nat) : Word := x.rotateLeft n

/-- F, rounds 0 to 15 (R107). -/
def fnF (b c d : Word) : Word := or32 (and32 b c) (and32 (not32 b) d)

/-- G, rounds 16 to 31 (R108). -/
def fnG (b c d : Word) : Word := or32 (and32 d b) (and32 (not32 d) c)

/-- H, rounds 32 to 47 (R109). -/
def fnH (b c d : Word) : Word := xor32 (xor32 b c) d

/-- I, rounds 48 to 63 (R110). -/
def fnI (b c d : Word) : Word := xor32 c (or32 b (not32 d))

/-- g of a round of kind F: i mod 16 (R154). -/
def gF (i : BitVec 6) : BitVec 4 := BitVec.ofNat 4 i.toNat

/-- g of a round of kind G: (5i + 1) mod 16 (R154). -/
def gG (i : BitVec 6) : BitVec 4 := BitVec.ofNat 4 (5 * i.toNat + 1)

/-- g of a round of kind H: (3i + 5) mod 16 (R154). -/
def gH (i : BitVec 6) : BitVec 4 := BitVec.ofNat 4 (3 * i.toNat + 5)

/-- g of a round of kind I: 7i mod 16 (R154). -/
def gI (i : BitVec 6) : BitVec 4 := BitVec.ofNat 4 (7 * i.toNat)

/-- The function of round i, selected by i[5:4] (30_encoding.md R80). -/
def roundFn (i : BitVec 6) : Word → Word → Word → Word :=
  if roundKind i = 0#2 then fnF
  else if roundKind i = 1#2 then fnG
  else if roundKind i = 2#2 then fnH
  else fnI

/-- The word-schedule index g(i) (R154). -/
def gIndex (i : BitVec 6) : BitVec 4 :=
  if roundKind i = 0#2 then gF i
  else if roundKind i = 1#2 then gG i
  else if roundKind i = 2#2 then gH i
  else gI i

/-- The round sum temp of R111: the rotate takes the full four-operand sum, and B is added after it. -/
def roundTemp (f w k : Word) (r : Nat) (x : Chain) : Word :=
  add32 (rotl32 (add32 (add32 (add32 x.a f) w) k) r) x.b

/-- The accumulator after a round: (A, B, C, D) <- (D, temp, B, C), all from the values before (R170). -/
def roundChain (fn : Word → Word → Word → Word) (w k : Word) (r : Nat) (x : Chain) : Chain :=
  ⟨x.d, roundTemp (fn x.b x.c x.d) w k r x, x.b, x.c⟩

/-- The element-wise sum of two chaining values (R176). -/
def addChain (x y : Chain) : Chain := ⟨add32 x.a y.a, add32 x.b y.b, add32 x.c y.c, add32 x.d y.d⟩

/-- Little-endian word assembly (R155): q0 in bits 7:0, q3 in bits 31:24. -/
def le32 (q0 q1 q2 q3 : Byte) : Word := q3 ++ q2 ++ q1 ++ q0

/-- Byte n of a word: v[8n+7 : 8n] (00_scope.md R11). -/
def byteOf (x : Word) (n : Nat) : Byte := x.extractLsb' (8 * n) 8

/-- BSWAP32 (R190). -/
def bswap32 (x : Word) : Word := byteOf x 0 ++ byteOf x 1 ++ byteOf x 2 ++ byteOf x 3

end Sys2Proof.Machine
end

