-- ==== Sys2Proof/Machine/Padding.lean ====
section
/-! DEFINITION. The padding engine (41_padding.md) and the cutting of the padded stream into blocks
(42_block_scheduler.md R150 to R153), as functions of the length L and of the message's bytes. -/

namespace Sys2Proof.Machine

/-- NBLK, on natural numbers with no wrap (R151). -/
def nblk (len : DWord) : Nat := (len.toNat + 8) / 64 + 1

/-- The length field's value, 8L mod 2^64 (R131). -/
def lenBits (len : DWord) : DWord := BitVec.ofNat 64 (8 * len.toNat)

/-- Byte k of the length field, least-significant first (R132, R135). -/
def lenByte (len : DWord) (k : Nat) : Byte := (lenBits len).extractLsb' (8 * k) 8

/-- The padding bytes: P(j) for j >= L (R132). For j beyond the padded stream, where the spec gives no
byte and no run asks, the formula's last case goes on and gives 0 (log 13). -/
def padByte (len : DWord) (j : Nat) : Byte :=
  if j = len.toNat then 0x80#8
  else if j < 64 * nblk len - 8 then 0x00#8
  else lenByte len (j - (64 * nblk len - 8))

/-- The padded stream P(j) of a message with length L and bytes m[j] (R132). -/
def padded (len : DWord) (msg : Nat → Byte) (j : Nat) : Byte :=
  if j < len.toNat then msg j else padByte len j

/-- Word k of block b of a byte stream (R153, R155). -/
def blockWord (p : Nat → Byte) (b k : Nat) : Word :=
  le32 (p (64 * b + 4 * k)) (p (64 * b + 4 * k + 1)) (p (64 * b + 4 * k + 2)) (p (64 * b + 4 * k + 3))

/-- Block b of a byte stream as sixteen words (R150, R153). -/
def blockWords (p : Nat → Byte) (b : Nat) : Vector Word 16 :=
  #v[blockWord p b 0, blockWord p b 1, blockWord p b 2, blockWord p b 3,
     blockWord p b 4, blockWord p b 5, blockWord p b 6, blockWord p b 7,
     blockWord p b 8, blockWord p b 9, blockWord p b 10, blockWord p b 11,
     blockWord p b 12, blockWord p b 13, blockWord p b 14, blockWord p b 15]

end Sys2Proof.Machine
end

