-- ==== Sys2Proof/Config.lean ====
section
/-! DEFINITION. What an implementation or its environment fixes: the free value of the model and the
parameter the spec gives a value (00_scope.md R10). -/

namespace Sys2Proof.Config

/-- The value of MEM_ADDR_W in this spec (00_scope.md R10). The width itself is a field of State, so that
every statement over all states holds for every width; this is the value at reset. Log 1. -/
def memAddrW : Nat := 32

/-- FREE VALUE. Which of the values a raced message byte held since START the core reads
(20_memory.md R60 item 4, 93 U7): applied to the number of STARTs accepted so far and to the position in the message.
It has no body, so nothing rests on which value is drawn. Log 7. -/
opaque raceDraw : Nat → Nat → Nat

end Sys2Proof.Config
end

