-- ==== Sys2Proof/Machine/State.lean ====
section
/-! DEFINITION. The state of the core and of what surrounds it (10_state.md, 20_memory.md), as plain data,
its reset value (R40, R281), and the reasons a step can stop. INVENTORY.md '## State' lists every field. -/

namespace Sys2Proof.Machine

/-- The sequencer state (10_state.md R27). -/
inductive Fsm where
  | idle
  | load
  | round
  | finish
  deriving DecidableEq, Repr

/-- One coming move of an agent or of the environment (00_scope.md R13; log 5). -/
inductive Move where
  /-- The host presents a register access with this host operation word (30_encoding.md R70). -/
  | access (how : BitVec 37)
  /-- The sequencer has a turn (42_block_scheduler.md R158). -/
  | turn
  /-- The host writes a byte of the message memory (45_host_interface.md R240). -/
  | memWrite (addr : Nat) (byte : Byte)
  /-- A clock edge with the reset pin at this level (70_reset_and_hazards.md R280). -/
  | rst (level : Bool)
  /-- The message memory starts or stops answering reads (60_exceptions.md R263). -/
  | answer (on : Bool)
  /-- One cycle of the memory port in which mem_ack is 1 (20_memory.md R51). -/
  | ack
  deriving DecidableEq, Repr

/-- The message memory's bytes (20_memory.md R52): address and byte, addresses strictly rising, no byte
equal to what an unlisted address reads as (Memory.wf in Machine/Ops.lean). -/
abbrev Memory := List Host.Cell

/-- Why the machine stops with a fault. -/
inductive Fault where
  /-- A host write to a message-memory address outside 0 .. 2^MEM_ADDR_W - 1, which no memory has
  (20_memory.md R52). Raised by the memWrite move only, by no instruction. Safe. Log 12. -/
  | noSuchAddress (addr : Nat)
  deriving DecidableEq, Repr

/-- Why the machine refuses. -/
inductive Refusal where
  /-- An instruction that has no meaning yet. Raised by exec's arms only. Safe. -/
  | notModelled (mnemonic : String)
  /-- A sequencer step asked for in a state in which it is not enabled (10_state.md R27;
  42_block_scheduler.md R153; 43_compression.md R170, R176). Raised by the ROUND and SEQ meanings;
  step never asks for one. Safe. Log 11. -/
  | notEnabled (mnemonic : String)
  deriving DecidableEq, Repr

/-- Everything the spec gives the machine, and the model's own fields after the line. -/
structure State where
  /-- The accumulator A, B, C, D (R20). -/
  acc : Chain
  /-- The snapshot a0, b0, c0, d0 (R23). -/
  snap : Chain
  /-- The block buffer M[0..15] (R24). -/
  m : Vector Word 16
  /-- The round index (R25). -/
  i : BitVec 6
  /-- The block counter (R26). -/
  blk : DWord
  /-- The sequencer state (R27). -/
  fsm : Fsm
  /-- STATUS.DONE (R34). -/
  done : Bool
  /-- STATUS.ERR (R34). -/
  err : Bool
  /-- STATUS.ERR_CODE (R34). -/
  errCode : BitVec 4
  /-- MSG_BASE (R32). -/
  msgBase : Word
  /-- MSG_LEN, the length L in bytes (R33). -/
  msgLen : DWord
  /-- The output reg_rdata: the data of the last read access (45_host_interface.md R210). Log 4. -/
  rdata : Word
  /-- The level of the input rst (70_reset_and_hazards.md R280). Log 10. -/
  rst : Bool
  /-- Whether the message memory answers reads, the input mem_ack (20_memory.md R51). Log 8. -/
  memAck : Bool
  /-- The message bytes the LOAD in progress has read at the memory port so far (R51, R53). Log 8. -/
  fetched : List Byte
  /-- The message memory (20_memory.md R52). Log 6. -/
  mem : Memory
  /-- MEM_ADDR_W (00_scope.md R10): configuration, changed by no step. Log 1. -/
  memAddrW : Nat
  /-- THE MODEL'S OWN from here on. The coming moves, the next one first. Log 5. -/
  inputs : List Move
  /-- Bytes the host overwrote while BUSY since the last accepted START, oldest first (R60 item 4). Log 7. -/
  raced : List Host.Cell
  /-- How many STARTs have been accepted: what the free race draw is applied to. Log 7. -/
  draws : Nat
  /-- The addresses read at the memory port since the last accepted START, oldest first (R53). Log 24. -/
  reads : List Nat
  deriving DecidableEq, Repr

/-- The machine right after reset (10_state.md R40, 70_reset_and_hazards.md R281, R282), the reset pin
released. Snapshot and block buffer are unspecified there: log 2, 3. -/
def State.reset : State where
  acc := iv
  snap := ⟨0#32, 0#32, 0#32, 0#32⟩
  m := #v[0#32, 0#32, 0#32, 0#32, 0#32, 0#32, 0#32, 0#32, 0#32, 0#32, 0#32, 0#32, 0#32, 0#32, 0#32, 0#32]
  i := 0#6
  blk := 0#64
  fsm := .idle
  done := false
  err := false
  errCode := 0#4
  msgBase := 0#32
  msgLen := 0#64
  rdata := 0#32
  rst := false
  memAck := true
  fetched := []
  mem := []
  memAddrW := Config.memAddrW
  inputs := []
  raced := []
  draws := 0
  reads := []

/-- What a step answers. -/
abbrev Result := Host.Outcome State Fault Refusal

end Sys2Proof.Machine
end

