-- ==== Sys2Proof/Machine/Ops.lean ====
section
/-! DEFINITION. The named operations over memory and state that the meanings share: the message memory
(20_memory.md), raise_err and its clearing (60_exceptions.md R252, R254), START, ABORT and reset
(45_host_interface.md R213, R214; 70_reset_and_hazards.md R280, R281), the sequencer's steps
(42_block_scheduler.md R153; 43_compression.md R170, R175, R176), the memory port (20 R51) and the output
pins (45 R238).
The core has no traps (R253): raise_err is the one operation that takes the place of taking an exception, and
nothing returns from it. -/

namespace Sys2Proof.Machine

/-! ### The message memory -/

/-- What an address reads as that nothing has written: the contents are a parameter of the run (R52), so the
value is the model's. Log 6. -/
def unlistedByte : Byte := 0x00#8

/-- MemRead(addr, 1) (R52): total, no side effect. -/
def Memory.read : Memory → Nat → Byte
  | [], _ => unlistedByte
  | (x, v) :: rest, a => if x = a then v else Memory.read rest a

/-- Put a cell in front of a memory, unless it says what an unlisted address says anyway. -/
def Memory.put (a : Nat) (b : Byte) (rest : Memory) : Memory :=
  if b = unlistedByte then rest else (a, b) :: rest

/-- The host writes a byte; the canonical form is kept. -/
def Memory.write : Memory → Nat → Byte → Memory
  | [], a, b => Memory.put a b []
  | (x, v) :: rest, a, b =>
    if a < x then Memory.put a b ((x, v) :: rest)
    else if a = x then Memory.put a b rest
    else (x, v) :: Memory.write rest a b

/-- No cell of a memory stands at or below address a. -/
def Memory.above (a : Nat) (m : Memory) : Bool := m.all fun c => decide (a < c.1)

/-- The canonical form: addresses strictly rising, no byte equal to the unlisted one. -/
def Memory.wf : Memory → Bool
  | [] => true
  | (x, v) :: rest => decide (v ≠ unlistedByte) && Memory.above x rest && Memory.wf rest

/-! ### Views of the state -/

/-- A sequencer step is enabled in every sequencer state but IDLE (R27). -/
def fsmActive : Fsm → Bool
  | .idle => false
  | .load => true
  | .round => true
  | .finish => true

/-- STATUS.BUSY: 1 iff fsm is not IDLE (R34). -/
def State.busy (s : State) : Bool := fsmActive s.fsm

/-- The effective address of message byte j: (BASE + j) mod 2^MEM_ADDR_W (R53, R74). -/
def State.msgAddr (s : State) (j : Nat) : Nat := (s.msgBase.toNat + j) % 2 ^ s.memAddrW

/-- The values an address held earlier since the last accepted START, oldest first (R60 item 4). -/
def State.held (s : State) (a : Nat) : List Byte :=
  (s.raced.filter fun c => decide (c.1 = a)).map fun c => c.2

/-- The byte a list of earlier values and the current one give a read: the current one where there was no
race, else the one the free draw picks (R60 item 4, U7). -/
def drawByte (n : Nat) (old : List Byte) (now : Byte) : Byte :=
  match old with
  | [] => now
  | v :: vs => (v :: vs ++ [now])[n % (v :: vs ++ [now]).length]'(Nat.mod_lt _ (by simp))

/-- Message byte m[j] as a read at the memory port in this state gives it (R130, R52, R60 item 4). -/
def State.msgByte (s : State) (j : Nat) : Byte :=
  drawByte (Config.raceDraw s.draws j) (s.held (s.msgAddr j)) (s.mem.read (s.msgAddr j))

/-- Message byte m[j] of the block being loaded as its LOAD takes it: the byte already read at the memory
port, else the one a read gives now (R53: each is read once). -/
def State.loadByte (s : State) (j : Nat) : Byte := (s.fetched[j - 64 * s.blk.toNat]?).getD (s.msgByte j)

/-- P(j) of the block being loaded as its LOAD takes it (R132, R138). -/
def State.stream (s : State) (j : Nat) : Byte := padded s.msgLen s.loadByte j

/-- How many message bytes block b holds: the reads its LOAD makes, those of j < L (R53). -/
def blockBytes (len : DWord) (b : Nat) : Nat := min 64 (len.toNat - 64 * b)

/-! ### The memory port -/

/-- A message byte of the block being loaded is still to be read (R53). -/
def State.portWants (s : State) : Bool := decide (s.fetched.length < blockBytes s.msgLen s.blk.toNat)

/-- The position of the byte being read: bytes are read in increasing j (R53). -/
def State.portPos (s : State) : Nat := 64 * s.blk.toNat + s.fetched.length

/-- The output mem_req: 0 while rst = 1 and outside LOAD (R280, R53), and 1 during a read until the cycle in which
mem_ack is 1 (R51), so it does not depend on mem_ack. DESIGN CHOICE (log 28): the spec leaves open when a read's
request is raised; here the first one stands from the beginning of the LOAD and each later one right after the byte
before it, with no gap, so mem_req is 1 until the block's last byte is read. -/
def State.memReq (s : State) : Bool := !s.rst && decide (s.fsm = .load) && s.portWants

/-- The output mem_addr while mem_req is 1: the address of the byte being read (R51, R53). -/
def State.memAddr (s : State) : Nat := s.msgAddr s.portPos

/-- The byte at mem_addr is read: mem_rdata in the cycle in which mem_ack is 1 (R51). -/
def readByte (s : State) : State :=
  { s with fetched := s.fetched ++ [s.msgByte s.portPos], reads := s.reads ++ [s.memAddr] }

/-- n bytes read one after the other. -/
def readBytes : Nat → State → State
  | 0, s => s
  | n + 1, s => readBytes n (readByte s)

/-- A cycle of the port with mem_ack = 1: a byte is read where mem_req is 1, else nothing happens (R51). -/
def portCycle (s : State) : State := if s.memReq then readByte s else s

/-! ### Errors -/

/-- ERR_CODE of a START while BUSY (R251). -/
def errStartWhileBusy : BitVec 4 := 1#4

/-- ERR_CODE of a reserved command (R251). -/
def errReservedCmd : BitVec 4 := 2#4

/-- ERR_CODE of a configuration write while BUSY (R251). -/
def errCfgWriteWhileBusy : BitVec 4 := 3#4

/-- raise_err(code) (00_scope.md R12, 60_exceptions.md R252): the first error only, nothing else. -/
def raiseErr (code : BitVec 4) (s : State) : State :=
  if s.err then s else { s with err := true, errCode := code }

/-- ERR and ERR_CODE cleared together (R254). -/
def clearErr (s : State) : State := { s with err := false, errCode := 0#4 }

/-! ### Register accesses -/

/-- A read access answers v on reg_rdata and changes nothing else (R210, R211). -/
def respond (v : Word) (s : State) : State := { s with rdata := v }

/-- A configuration write (R217 to R219): refused with error 3 while BUSY, else the new state. -/
def writeConfig (written : State) (s : State) : State :=
  if s.busy then raiseErr errCfgWriteWhileBusy s else written

/-- A register access presented while rst = 1 is ignored: a write has no effect, a read returns 0 (R280). -/
def ignoreAccess (isWrite : Bool) (s : State) : State :=
  if isWrite then s else respond 0#32 s

/-! ### START, ABORT, reset -/

/-- An accepted START (R213). The race record, its draws and the port's trace begin anew with the message. -/
def beginMessage (s : State) : State :=
  { s with
    acc := iv, blk := 0#64, done := false, fsm := .load, fetched := [], raced := [], draws := s.draws + 1,
    reads := [] }

/-- ABORT (R214): back to IDLE at once; the snapshot and M keep stale values. A read in progress is withdrawn
and its data discarded. -/
def abortMessage (s : State) : State :=
  { s with acc := iv, i := 0#6, blk := 0#64, done := false, fsm := .idle, fetched := [] }

/-- A clock edge with rst = 1 (R280, R281): every piece of the core's state takes its reset value. The
message memory, the address width and the environment's moves are not the core's and stay. Log 10. -/
def assertReset (s : State) : State :=
  { State.reset with
    rst := true, memAck := s.memAck, mem := s.mem, memAddrW := s.memAddrW, inputs := s.inputs,
    draws := s.draws }

/-- An edge with the reset pin at this level (R280). -/
def setRst (level : Bool) (s : State) : State :=
  if level then assertReset s else { s with rst := false }

/-! ### The host's writes to message memory -/

/-- The host writes a byte of message memory: while BUSY the byte overwritten stays one of those a LOAD may
read (R60 item 4). An address no memory has faults (log 12). -/
def hostMemWrite (a : Nat) (b : Byte) (s : State) : Result :=
  if a < 2 ^ s.memAddrW then
    .next { s with
      mem := s.mem.write a b,
      raced := if s.busy then s.raced ++ [(a, s.mem.read a)] else s.raced }
  else .fault (.noSuchAddress a)

/-! ### Sequencer steps -/

/-- LOAD has to wait: it has a byte to read and the memory does not answer (R263). -/
def State.loadWaits (s : State) : Bool := !s.memAck && s.portWants

/-- The end of a LOAD, all its message bytes read: M, the snapshot, i and fsm (R153). -/
def takeBlock (s : State) : State :=
  { s with m := blockWords s.stream s.blk.toNat, snap := s.acc, i := 0#6, fsm := .round, fetched := [] }

/-- LOAD (R153): the block's message bytes that are still to be read, one after the other, and then the block. -/
def loadBlock (s : State) : State :=
  takeBlock (readBytes (blockBytes s.msgLen s.blk.toNat - s.fetched.length) s)

/-- The round counter at the end of a ROUND step (R175). -/
def nextRound (s : State) : State :=
  if s.i = 63#6 then { s with fsm := .finish } else { s with i := s.i + 1#6 }

/-- A ROUND step of index s.i with function fn and word index g (R170). -/
def roundStep (fn : Word → Word → Word → Word) (g : BitVec 4) (s : State) : State :=
  nextRound { s with acc := roundChain fn (atPos s.m g) (kRom s.i) (rRom s.i) s.acc }

/-- The block just finished was the last: blk + 1 = NBLK(L), blk before the step (R176). -/
def State.lastBlock (s : State) : Bool := decide (s.blk.toNat + 1 = nblk s.msgLen)

/-- FINISH (R176). -/
def finishBlock (s : State) : State :=
  { s with
    acc := addChain s.snap s.acc,
    blk := s.blk + 1#64,
    fsm := if s.lastBlock then .idle else .load,
    done := if s.lastBlock then true else s.done }

/-- A sequencer step under its enabling condition. -/
def whenEnabled (enabled : Bool) (mnemonic : String) (t : State) : Result :=
  if enabled then .next t else .refused (.notEnabled mnemonic)

/-! ### Output pins -/

/-- The output busy (R238). -/
def State.busyPin (s : State) : Bool := s.busy

/-- The output done (R238). -/
def State.donePin (s : State) : Bool := s.done

end Sys2Proof.Machine
end

