-- ==== Sys2Proof/Machine/Flags.lean ====
section
/-! DEFINITION. The only flags of the core: the STATUS word (10_state.md R29, R34). -/

namespace Sys2Proof.Machine

/-- The STATUS word: BUSY in bit 0, DONE in bit 1, ERR in bit 2, ERR_CODE in bits 7:4, reserved bits 0
(R34, R224). -/
def statusWord (s : State) : Word :=
  0#24 ++ s.errCode ++ 0#1 ++ BitVec.ofBool s.err ++ BitVec.ofBool s.done ++ BitVec.ofBool s.busy

end Sys2Proof.Machine
end

