-- ==== Sys2Proof/Machine/Operands.lean ====
section
/-! DEFINITION. Operand forms of the host operations (30_encoding.md R71, R74): the register map with the
value each index reads as (10_state.md R32 to R38), the halves of MSG_LEN, STATUS's DATA[2], and the
sequencer's code (R82). -/

namespace Sys2Proof.Machine

/-- The registers of the map (R71). -/
inductive Reg where
  | ctrl
  | status
  | msgBase
  | msgLenLo
  | msgLenHi
  | id
  | rsvd6
  | rsvd7
  | digestA
  | digestB
  | digestC
  | digestD
  | digestSwapA
  | digestSwapB
  | digestSwapC
  | digestSwapD
  deriving DecidableEq, Repr

/-- The register's index (R71). -/
def regIdx : Reg → BitVec 4
  | .ctrl => 0#4
  | .status => 1#4
  | .msgBase => 2#4
  | .msgLenLo => 3#4
  | .msgLenHi => 4#4
  | .id => 5#4
  | .rsvd6 => 6#4
  | .rsvd7 => 7#4
  | .digestA => 8#4
  | .digestB => 9#4
  | .digestC => 10#4
  | .digestD => 11#4
  | .digestSwapA => 12#4
  | .digestSwapB => 13#4
  | .digestSwapC => 14#4
  | .digestSwapD => 15#4

/-- MSG_LEN_LO = L[31:0] (R33). -/
def lenLo (len : DWord) : Word := len.extractLsb' 0 32

/-- MSG_LEN_HI = L[63:32] (R33). -/
def lenHi (len : DWord) : Word := len.extractLsb' 32 32

/-- L assembled from its halves (R74). -/
def lenOf (hi lo : Word) : DWord := hi ++ lo

/-- A digest view: 0 while BUSY, else the word (R37). -/
def digestView (s : State) (w : Word) : Word := if s.busy then 0#32 else w

/-- What a register reads as (R71, R223 to R237). -/
def readReg (r : Reg) (s : State) : Word :=
  match r with
  | .ctrl => 0#32
  | .status => statusWord s
  | .msgBase => s.msgBase
  | .msgLenLo => lenLo s.msgLen
  | .msgLenHi => lenHi s.msgLen
  | .id => idWord
  | .rsvd6 => 0#32
  | .rsvd7 => 0#32
  | .digestA => digestView s s.acc.a
  | .digestB => digestView s s.acc.b
  | .digestC => digestView s s.acc.c
  | .digestD => digestView s s.acc.d
  | .digestSwapA => digestView s (bswap32 s.acc.a)
  | .digestSwapB => digestView s (bswap32 s.acc.b)
  | .digestSwapC => digestView s (bswap32 s.acc.c)
  | .digestSwapD => digestView s (bswap32 s.acc.d)

/-- DATA[2] of a STATUS write: the only bit it takes (R74, R216). -/
def statusClears (data : Word) : Bool := data.getLsbD 2

/-- The sequencer state's code (R82). -/
def fsmCode : Fsm → BitVec 2
  | .idle => 0#2
  | .load => 1#2
  | .round => 2#2
  | .finish => 3#2

/-- The sequencer state of a code (R82). -/
def fsmOfCode (c : BitVec 2) : Fsm :=
  if c = 0#2 then .idle else if c = 1#2 then .load else if c = 2#2 then .round else .finish

/-- ROUND of index i is the step enabled now (R27, R170). -/
def State.roundEnabled (s : State) (i : BitVec 6) : Bool := decide (s.fsm = .round) && decide (s.i = i)

end Sys2Proof.Machine
end

