-- ==== Sys2Proof/Machine/Commands.lean ====
section
/-! DEFINITION. CMD.*: writes to CTRL (45_host_interface.md R212 to R215). DATA[31:4] (`hi`) is ignored (R72). -/

namespace Sys2Proof.Machine

/-- CMD.NOP: no effect (R212). -/
def execCmdNop (_hi : BitVec 28) (s : State) : Result := .next s

/-- CMD.START: refused with error 1 while BUSY, else a message begins (R213). -/
def execCmdStart (_hi : BitVec 28) (s : State) : Result :=
  .next (if s.busy then raiseErr errStartWhileBusy s else beginMessage s)

/-- CMD.ABORT: IDLE at once, in every state (R214). -/
def execCmdAbort (_hi : BitVec 28) (s : State) : Result := .next (abortMessage s)

/-- CMD.RESERVED, code 3: error 2 (R215). -/
def execCmdReserved0011 (_hi : BitVec 28) (s : State) : Result := .next (raiseErr errReservedCmd s)

/-- CMD.RESERVED, codes 4 to 7: error 2 (R215). -/
def execCmdReserved01xx (_hi : BitVec 28) (_cmd : BitVec 4) (s : State) : Result :=
  .next (raiseErr errReservedCmd s)

/-- CMD.RESERVED, codes 8 to 15: error 2 (R215). -/
def execCmdReserved1xxx (_hi : BitVec 28) (_cmd : BitVec 4) (s : State) : Result :=
  .next (raiseErr errReservedCmd s)

end Sys2Proof.Machine
end

