-- ==== Sys2Proof/Machine/RegReads.lean ====
section
/-! DEFINITION. RD.*: register reads (45_host_interface.md R223 to R237). Each answers its register's value on reg_rdata and
changes nothing else (R211). -/

namespace Sys2Proof.Machine

/-- RD.CTRL (R223: 0). -/
def execRdCtrl (_data : Word) (s : State) : Result := .next (respond (readReg .ctrl s) s)

/-- RD.STATUS (R224: BUSY + 2*DONE + 4*ERR + 16*ERR_CODE). -/
def execRdStatus (_data : Word) (s : State) : Result := .next (respond (readReg .status s) s)

/-- RD.MSG_BASE (R225: BASE). -/
def execRdMsgBase (_data : Word) (s : State) : Result := .next (respond (readReg .msgBase s) s)

/-- RD.MSG_LEN_LO (R226: L[31:0]). -/
def execRdMsgLenLo (_data : Word) (s : State) : Result := .next (respond (readReg .msgLenLo s) s)

/-- RD.MSG_LEN_HI (R227: L[63:32]). -/
def execRdMsgLenHi (_data : Word) (s : State) : Result := .next (respond (readReg .msgLenHi s) s)

/-- RD.ID (R228: the identification word). -/
def execRdId (_data : Word) (s : State) : Result := .next (respond (readReg .id s) s)

/-- RD.RSVD (R229: 0 at both indices). -/
def execRdRsvd (_idx : BitVec 4) (_data : Word) (s : State) : Result :=
  .next (respond (readReg .rsvd6 s) s)

/-- RD.DIGEST_A (R230: A, or 0 while BUSY). -/
def execRdDigestA (_data : Word) (s : State) : Result := .next (respond (readReg .digestA s) s)

/-- RD.DIGEST_B (R231: B, or 0 while BUSY). -/
def execRdDigestB (_data : Word) (s : State) : Result := .next (respond (readReg .digestB s) s)

/-- RD.DIGEST_C (R232: C, or 0 while BUSY). -/
def execRdDigestC (_data : Word) (s : State) : Result := .next (respond (readReg .digestC s) s)

/-- RD.DIGEST_D (R233: D, or 0 while BUSY). -/
def execRdDigestD (_data : Word) (s : State) : Result := .next (respond (readReg .digestD s) s)

/-- RD.DIGEST_SWAP_A (R234: bswap32(A), or 0 while BUSY). -/
def execRdDigestSwapA (_data : Word) (s : State) : Result := .next (respond (readReg .digestSwapA s) s)

/-- RD.DIGEST_SWAP_B (R235: bswap32(B), or 0 while BUSY). -/
def execRdDigestSwapB (_data : Word) (s : State) : Result := .next (respond (readReg .digestSwapB s) s)

/-- RD.DIGEST_SWAP_C (R236: bswap32(C), or 0 while BUSY). -/
def execRdDigestSwapC (_data : Word) (s : State) : Result := .next (respond (readReg .digestSwapC s) s)

/-- RD.DIGEST_SWAP_D (R237: bswap32(D), or 0 while BUSY). -/
def execRdDigestSwapD (_data : Word) (s : State) : Result := .next (respond (readReg .digestSwapD s) s)

end Sys2Proof.Machine
end

