-- ==== Sys2Proof/Machine/RegWrites.lean ====
section
/-! DEFINITION. WR.*: register writes other than CTRL (45_host_interface.md R216 to R222). -/

namespace Sys2Proof.Machine

/-- WR.STATUS: DATA[2] = 1 clears ERR and ERR_CODE; every other bit is ignored (R216). -/
def execWrStatus (data : Word) (s : State) : Result :=
  .next (if statusClears data then clearErr s else s)

/-- WR.MSG_BASE: refused with error 3 while BUSY, else BASE <- DATA (R217). -/
def execWrMsgBase (data : Word) (s : State) : Result :=
  .next (writeConfig { s with msgBase := data } s)

/-- WR.MSG_LEN_LO: refused with error 3 while BUSY, else L[31:0] <- DATA (R218). -/
def execWrMsgLenLo (data : Word) (s : State) : Result :=
  .next (writeConfig { s with msgLen := lenOf (lenHi s.msgLen) data } s)

/-- WR.MSG_LEN_HI: refused with error 3 while BUSY, else L[63:32] <- DATA (R219). -/
def execWrMsgLenHi (data : Word) (s : State) : Result :=
  .next (writeConfig { s with msgLen := lenOf data (lenLo s.msgLen) } s)

/-- WR.ID: no effect (R220). -/
def execWrId (_data : Word) (s : State) : Result := .next s

/-- WR.RSVD: no effect (R221). -/
def execWrRsvd (_idx : BitVec 4) (_data : Word) (s : State) : Result := .next s

/-- WR.DIGEST: no effect; A..D are not writable by the host (R222). -/
def execWrDigest (_idx : BitVec 4) (_data : Word) (s : State) : Result := .next s

end Sys2Proof.Machine
end

