-- ==== Sys2Proof/Syntax.lean ====
section
/-! DEFINITION. Instr: one constructor per row of spec/opcode_table.json (30_encoding.md R84): the host
operations (HOW), the round kinds (RIDX) and the sequencer steps (FSM).

Operands are the fields of the encoding. `hi` is DATA[31:4] of a CTRL write and `data` of a read is
DATA[31:0]: the bits the decode ignores (R70, R72) are kept, so that no bit of a word is lost (log 15).
`cmd` is DATA[3:0] and `idx` is IDX where the row leaves bits of them open; WellFormed says which values
belong to the row. `p` is the round position i[3:0] (R80). -/

namespace Sys2Proof

inductive Instr where
  /-- CMD.NOP (R212). -/
  | cmdNop (hi : BitVec 28)
  /-- CMD.START (R213). -/
  | cmdStart (hi : BitVec 28)
  /-- CMD.ABORT (R214). -/
  | cmdAbort (hi : BitVec 28)
  /-- CMD.RESERVED, code 3 (R215). -/
  | cmdReserved0011 (hi : BitVec 28)
  /-- CMD.RESERVED, codes 4 to 7 (R215). -/
  | cmdReserved01xx (hi : BitVec 28) (cmd : BitVec 4)
  /-- CMD.RESERVED, codes 8 to 15 (R215). -/
  | cmdReserved1xxx (hi : BitVec 28) (cmd : BitVec 4)
  /-- WR.STATUS (R216). -/
  | wrStatus (data : Word)
  /-- WR.MSG_BASE (R217). -/
  | wrMsgBase (data : Word)
  /-- WR.MSG_LEN_LO (R218). -/
  | wrMsgLenLo (data : Word)
  /-- WR.MSG_LEN_HI (R219). -/
  | wrMsgLenHi (data : Word)
  /-- WR.ID (R220). -/
  | wrId (data : Word)
  /-- WR.RSVD, indices 6 and 7 (R221). -/
  | wrRsvd (idx : BitVec 4) (data : Word)
  /-- WR.DIGEST, indices 8 to 15 (R222). -/
  | wrDigest (idx : BitVec 4) (data : Word)
  /-- RD.CTRL (R223). -/
  | rdCtrl (data : Word)
  /-- RD.STATUS (R224). -/
  | rdStatus (data : Word)
  /-- RD.MSG_BASE (R225). -/
  | rdMsgBase (data : Word)
  /-- RD.MSG_LEN_LO (R226). -/
  | rdMsgLenLo (data : Word)
  /-- RD.MSG_LEN_HI (R227). -/
  | rdMsgLenHi (data : Word)
  /-- RD.ID (R228). -/
  | rdId (data : Word)
  /-- RD.RSVD, indices 6 and 7 (R229). -/
  | rdRsvd (idx : BitVec 4) (data : Word)
  /-- RD.DIGEST_A (R230). -/
  | rdDigestA (data : Word)
  /-- RD.DIGEST_B (R231). -/
  | rdDigestB (data : Word)
  /-- RD.DIGEST_C (R232). -/
  | rdDigestC (data : Word)
  /-- RD.DIGEST_D (R233). -/
  | rdDigestD (data : Word)
  /-- RD.DIGEST_SWAP_A (R234). -/
  | rdDigestSwapA (data : Word)
  /-- RD.DIGEST_SWAP_B (R235). -/
  | rdDigestSwapB (data : Word)
  /-- RD.DIGEST_SWAP_C (R236). -/
  | rdDigestSwapC (data : Word)
  /-- RD.DIGEST_SWAP_D (R237). -/
  | rdDigestSwapD (data : Word)
  /-- ROUND.F, round index 0 ++ p (R171). -/
  | roundF (p : BitVec 4)
  /-- ROUND.G, round index 16 + p (R172). -/
  | roundG (p : BitVec 4)
  /-- ROUND.H, round index 32 + p (R173). -/
  | roundH (p : BitVec 4)
  /-- ROUND.I, round index 48 + p (R174). -/
  | roundI (p : BitVec 4)
  /-- SEQ.LOAD (42_block_scheduler.md R153). -/
  | seqLoad
  /-- SEQ.ROUND, the generic round step (43_compression.md R170). -/
  | seqRound
  /-- SEQ.FINISH (43_compression.md R176). -/
  | seqFinish
  deriving DecidableEq, Repr

end Sys2Proof
end

