-- ==== Sys2Proof/WellFormed.lean ====
section
/-! DEFINITION. Which operand values belong to an instruction's row (30_encoding.md R71, R73, R84). -/

namespace Sys2Proof

/-- An instruction's open operand bits lie in its row: CMD codes 4 to 7 and 8 to 15 for the reserved
commands (R73), indices 6 and 7 for the reserved registers (R38), 8 to 15 for the digest views (R37).
Every other operand may hold any value. -/
def Instr.wf : Instr → Bool
  | .cmdReserved01xx _ cmd => decide (4 ≤ cmd.toNat ∧ cmd.toNat ≤ 7)
  | .cmdReserved1xxx _ cmd => decide (8 ≤ cmd.toNat)
  | .wrRsvd idx _ => decide (idx.toNat = 6 ∨ idx.toNat = 7)
  | .wrDigest idx _ => decide (8 ≤ idx.toNat)
  | .rdRsvd idx _ => decide (idx.toNat = 6 ∨ idx.toNat = 7)
  | .cmdNop _ | .cmdStart _ | .cmdAbort _ | .cmdReserved0011 _ => true
  | .wrStatus _ | .wrMsgBase _ | .wrMsgLenLo _ | .wrMsgLenHi _ | .wrId _ => true
  | .rdCtrl _ | .rdStatus _ | .rdMsgBase _ | .rdMsgLenLo _ | .rdMsgLenHi _ | .rdId _ => true
  | .rdDigestA _ | .rdDigestB _ | .rdDigestC _ | .rdDigestD _ => true
  | .rdDigestSwapA _ | .rdDigestSwapB _ | .rdDigestSwapC _ | .rdDigestSwapD _ => true
  | .roundF _ | .roundG _ | .roundH _ | .roundI _ => true
  | .seqLoad | .seqRound | .seqFinish => true

/-- A read of a register (45_host_interface.md R223 to R237). -/
def Instr.isRead : Instr → Bool
  | .rdCtrl _ | .rdStatus _ | .rdMsgBase _ | .rdMsgLenLo _ | .rdMsgLenHi _ | .rdId _ | .rdRsvd _ _ => true
  | .rdDigestA _ | .rdDigestB _ | .rdDigestC _ | .rdDigestD _ => true
  | .rdDigestSwapA _ | .rdDigestSwapB _ | .rdDigestSwapC _ | .rdDigestSwapD _ => true
  | .cmdNop _ | .cmdStart _ | .cmdAbort _ | .cmdReserved0011 _ => false
  | .cmdReserved01xx _ _ | .cmdReserved1xxx _ _ => false
  | .wrStatus _ | .wrMsgBase _ | .wrMsgLenLo _ | .wrMsgLenHi _ | .wrId _ => false
  | .wrRsvd _ _ | .wrDigest _ _ => false
  | .roundF _ | .roundG _ | .roundH _ | .roundI _ => false
  | .seqLoad | .seqRound | .seqFinish => false

/-- A step of the sequencer (00_scope.md R13); every other instruction is a register access of the host. -/
def Instr.isSeq : Instr → Bool
  | .roundF _ | .roundG _ | .roundH _ | .roundI _ => true
  | .seqLoad | .seqRound | .seqFinish => true
  | .rdCtrl _ | .rdStatus _ | .rdMsgBase _ | .rdMsgLenLo _ | .rdMsgLenHi _ | .rdId _ | .rdRsvd _ _ => false
  | .rdDigestA _ | .rdDigestB _ | .rdDigestC _ | .rdDigestD _ => false
  | .rdDigestSwapA _ | .rdDigestSwapB _ | .rdDigestSwapC _ | .rdDigestSwapD _ => false
  | .cmdNop _ | .cmdStart _ | .cmdAbort _ | .cmdReserved0011 _ => false
  | .cmdReserved01xx _ _ | .cmdReserved1xxx _ _ => false
  | .wrStatus _ | .wrMsgBase _ | .wrMsgLenLo _ | .wrMsgLenHi _ | .wrId _ => false
  | .wrRsvd _ _ | .wrDigest _ _ => false

end Sys2Proof
end

