-- ==== Sys2Proof/Decode.lean ====
section
/-! DEFINITION. Decoding and encoding (30_encoding.md): the 37-bit host operation word (R70 to R75), the
6-bit round index (R80) and the 2-bit sequencer code (R82). The core has no instruction memory (R63): a
code word is what the register port, the round counter or the sequencer presents, so a word carries its
format with it (log 14). -/

namespace Sys2Proof

/-- The three encodings of spec/opcode_table.json (R84). -/
inductive Fmt where
  /-- Host operation word, 37 bits (R70). -/
  | how
  /-- Round index, 6 bits (R80). -/
  | ridx
  /-- Sequencer state code, 2 bits (R82). -/
  | fsm
  deriving DecidableEq, Repr

/-- A word of one of the formats. -/
structure CodeWord where
  fmt : Fmt
  bits : Nat
  deriving DecidableEq, Repr

/-- Why a code word is no instruction. -/
inductive Reject where
  /-- The word has a bit above its format's width (R70, R80, R82). -/
  | tooWide
  /-- The sequencer code 00 is IDLE: no step (R27, R82). -/
  | idleCode
  deriving DecidableEq, Repr

/-- How many bits a word of the format has (R84). -/
def fmtWidth : Fmt → Nat
  | .how => 37
  | .ridx => 6
  | .fsm => 2

/-! ### Decoding -/

/-- A CTRL write, decoded on CMD = DATA[3:0]; DATA[31:4] is ignored (R72, R73). -/
def decodeCmd (data : Word) : Instr :=
  let hi := data.extractLsb' 4 28
  let cmd := data.extractLsb' 0 4
  if cmd = 0#4 then .cmdNop hi
  else if cmd = 1#4 then .cmdStart hi
  else if cmd = 2#4 then .cmdAbort hi
  else if cmd = 3#4 then .cmdReserved0011 hi
  else if cmd.toNat ≤ 7 then .cmdReserved01xx hi cmd
  else .cmdReserved1xxx hi cmd

/-- A register write, decoded on the index (R71). -/
def decodeWrite (idx : BitVec 4) (data : Word) : Instr :=
  if idx = 0#4 then decodeCmd data
  else if idx = 1#4 then .wrStatus data
  else if idx = 2#4 then .wrMsgBase data
  else if idx = 3#4 then .wrMsgLenLo data
  else if idx = 4#4 then .wrMsgLenHi data
  else if idx = 5#4 then .wrId data
  else if idx.toNat ≤ 7 then .wrRsvd idx data
  else .wrDigest idx data

/-- A register read, decoded on the index (R71); DATA carries no meaning (R70). -/
def decodeRead (idx : BitVec 4) (data : Word) : Instr :=
  if idx = 0#4 then .rdCtrl data
  else if idx = 1#4 then .rdStatus data
  else if idx = 2#4 then .rdMsgBase data
  else if idx = 3#4 then .rdMsgLenLo data
  else if idx = 4#4 then .rdMsgLenHi data
  else if idx = 5#4 then .rdId data
  else if idx.toNat ≤ 7 then .rdRsvd idx data
  else if idx = 8#4 then .rdDigestA data
  else if idx = 9#4 then .rdDigestB data
  else if idx = 10#4 then .rdDigestC data
  else if idx = 11#4 then .rdDigestD data
  else if idx = 12#4 then .rdDigestSwapA data
  else if idx = 13#4 then .rdDigestSwapB data
  else if idx = 14#4 then .rdDigestSwapC data
  else .rdDigestSwapD data

/-- WE of a host operation word: bit 36 (R70). -/
def howWe (w : BitVec 37) : Bool := w.getLsbD 36

/-- IDX of a host operation word: bits 35:32 (R70). -/
def howIdx (w : BitVec 37) : BitVec 4 := w.extractLsb' 32 4

/-- DATA of a host operation word: bits 31:0 (R70). -/
def howData (w : BitVec 37) : Word := w.extractLsb' 0 32

/-- A host operation word: all 2^37 words decode (R71, R84). -/
def decodeHow (w : BitVec 37) : Instr :=
  if howWe w then decodeWrite (howIdx w) (howData w) else decodeRead (howIdx w) (howData w)

/-- The round kind of a round index, by i[5:4]; every index selects exactly one (R80). -/
def decodeRound (i : BitVec 6) : Instr :=
  let kind := i.extractLsb' 4 2
  let p := i.extractLsb' 0 4
  if kind = 0#2 then .roundF p
  else if kind = 1#2 then .roundG p
  else if kind = 2#2 then .roundH p
  else .roundI p

/-- The sequencer step of a sequencer code; IDLE is no step (R27, R82). -/
def decodeFsm (c : BitVec 2) : Except Reject Instr :=
  if c = 0#2 then .error .idleCode
  else if c = 1#2 then .ok .seqLoad
  else if c = 2#2 then .ok .seqRound
  else .ok .seqFinish

/-- The decoder, total on every word of every format. -/
def decode (c : CodeWord) : Except Reject Instr :=
  if 2 ^ fmtWidth c.fmt ≤ c.bits then .error .tooWide
  else match c.fmt with
    | .how => .ok (decodeHow (BitVec.ofNat 37 c.bits))
    | .ridx => .ok (decodeRound (BitVec.ofNat 6 c.bits))
    | .fsm => decodeFsm (BitVec.ofNat 2 c.bits)

/-! ### Encoding -/

/-- HOW of a register access: WE, IDX, DATA (R70). -/
def howBits (we : BitVec 1) (idx : BitVec 4) (data : Word) : BitVec 37 := we ++ idx ++ data

/-- A register write's word (R70). -/
def writeWord (idx : BitVec 4) (data : Word) : CodeWord := ⟨.how, (howBits 1#1 idx data).toNat⟩

/-- A register read's word (R70). -/
def readWord (idx : BitVec 4) (data : Word) : CodeWord := ⟨.how, (howBits 0#1 idx data).toNat⟩

/-- A CTRL write's word: DATA = the ignored bits and the command code (R72). -/
def ctrlWord (hi : BitVec 28) (cmd : BitVec 4) : CodeWord := writeWord 0#4 (hi ++ cmd)

/-- The round index of a kind and a position in its group (R80). -/
def roundIndex (kind : BitVec 2) (p : BitVec 4) : BitVec 6 := kind ++ p

/-- A round index as a word (R80). -/
def roundWord (kind : BitVec 2) (p : BitVec 4) : CodeWord := ⟨.ridx, (roundIndex kind p).toNat⟩

/-- The encoder, from R70 to R73, R80 and R82. -/
def encode : Instr → CodeWord
  | .cmdNop hi => ctrlWord hi 0#4
  | .cmdStart hi => ctrlWord hi 1#4
  | .cmdAbort hi => ctrlWord hi 2#4
  | .cmdReserved0011 hi => ctrlWord hi 3#4
  | .cmdReserved01xx hi cmd => ctrlWord hi cmd
  | .cmdReserved1xxx hi cmd => ctrlWord hi cmd
  | .wrStatus data => writeWord 1#4 data
  | .wrMsgBase data => writeWord 2#4 data
  | .wrMsgLenLo data => writeWord 3#4 data
  | .wrMsgLenHi data => writeWord 4#4 data
  | .wrId data => writeWord 5#4 data
  | .wrRsvd idx data => writeWord idx data
  | .wrDigest idx data => writeWord idx data
  | .rdCtrl data => readWord 0#4 data
  | .rdStatus data => readWord 1#4 data
  | .rdMsgBase data => readWord 2#4 data
  | .rdMsgLenLo data => readWord 3#4 data
  | .rdMsgLenHi data => readWord 4#4 data
  | .rdId data => readWord 5#4 data
  | .rdRsvd idx data => readWord idx data
  | .rdDigestA data => readWord 8#4 data
  | .rdDigestB data => readWord 9#4 data
  | .rdDigestC data => readWord 10#4 data
  | .rdDigestD data => readWord 11#4 data
  | .rdDigestSwapA data => readWord 12#4 data
  | .rdDigestSwapB data => readWord 13#4 data
  | .rdDigestSwapC data => readWord 14#4 data
  | .rdDigestSwapD data => readWord 15#4 data
  | .roundF p => roundWord 0#2 p
  | .roundG p => roundWord 1#2 p
  | .roundH p => roundWord 2#2 p
  | .roundI p => roundWord 3#2 p
  | .seqLoad => ⟨.fsm, 1⟩
  | .seqRound => ⟨.fsm, 2⟩
  | .seqFinish => ⟨.fsm, 3⟩

/-! ### The opcode table's own patterns -/

/-- A row of spec/opcode_table.json: a word v of the format selects the row iff v & mask = value (R84). -/
structure Row where
  fmt : Fmt
  mask : Nat
  value : Nat
  deriving DecidableEq, Repr

/-- A code word selects a row. -/
def Row.selects (r : Row) (c : CodeWord) : Bool :=
  decide (c.fmt = r.fmt) && decide (c.bits &&& r.mask = r.value)

/-- The row of each instruction, transcribed from the table's "match" and "mask". -/
def rowOf : Instr → Row
  | .cmdNop _ => ⟨.how, 0x1f0000000f, 0x1000000000⟩
  | .cmdStart _ => ⟨.how, 0x1f0000000f, 0x1000000001⟩
  | .cmdAbort _ => ⟨.how, 0x1f0000000f, 0x1000000002⟩
  | .cmdReserved0011 _ => ⟨.how, 0x1f0000000f, 0x1000000003⟩
  | .cmdReserved01xx _ _ => ⟨.how, 0x1f0000000c, 0x1000000004⟩
  | .cmdReserved1xxx _ _ => ⟨.how, 0x1f00000008, 0x1000000008⟩
  | .wrStatus _ => ⟨.how, 0x1f00000000, 0x1100000000⟩
  | .wrMsgBase _ => ⟨.how, 0x1f00000000, 0x1200000000⟩
  | .wrMsgLenLo _ => ⟨.how, 0x1f00000000, 0x1300000000⟩
  | .wrMsgLenHi _ => ⟨.how, 0x1f00000000, 0x1400000000⟩
  | .wrId _ => ⟨.how, 0x1f00000000, 0x1500000000⟩
  | .wrRsvd _ _ => ⟨.how, 0x1e00000000, 0x1600000000⟩
  | .wrDigest _ _ => ⟨.how, 0x1800000000, 0x1800000000⟩
  | .rdCtrl _ => ⟨.how, 0x1f00000000, 0x0⟩
  | .rdStatus _ => ⟨.how, 0x1f00000000, 0x100000000⟩
  | .rdMsgBase _ => ⟨.how, 0x1f00000000, 0x200000000⟩
  | .rdMsgLenLo _ => ⟨.how, 0x1f00000000, 0x300000000⟩
  | .rdMsgLenHi _ => ⟨.how, 0x1f00000000, 0x400000000⟩
  | .rdId _ => ⟨.how, 0x1f00000000, 0x500000000⟩
  | .rdRsvd _ _ => ⟨.how, 0x1e00000000, 0x600000000⟩
  | .rdDigestA _ => ⟨.how, 0x1f00000000, 0x800000000⟩
  | .rdDigestB _ => ⟨.how, 0x1f00000000, 0x900000000⟩
  | .rdDigestC _ => ⟨.how, 0x1f00000000, 0xa00000000⟩
  | .rdDigestD _ => ⟨.how, 0x1f00000000, 0xb00000000⟩
  | .rdDigestSwapA _ => ⟨.how, 0x1f00000000, 0xc00000000⟩
  | .rdDigestSwapB _ => ⟨.how, 0x1f00000000, 0xd00000000⟩
  | .rdDigestSwapC _ => ⟨.how, 0x1f00000000, 0xe00000000⟩
  | .rdDigestSwapD _ => ⟨.how, 0x1f00000000, 0xf00000000⟩
  | .roundF _ => ⟨.ridx, 0x30, 0x0⟩
  | .roundG _ => ⟨.ridx, 0x30, 0x10⟩
  | .roundH _ => ⟨.ridx, 0x30, 0x20⟩
  | .roundI _ => ⟨.ridx, 0x30, 0x30⟩
  | .seqLoad => ⟨.fsm, 0x3, 0x1⟩
  | .seqRound => ⟨.fsm, 0x3, 0x2⟩
  | .seqFinish => ⟨.fsm, 0x3, 0x3⟩

/-- One instruction of each row, in the table's order: the host operations. -/
def hostRowReps : List Instr :=
  [.cmdNop 0, .cmdStart 0, .cmdAbort 0, .cmdReserved0011 0, .cmdReserved01xx 0 4, .cmdReserved1xxx 0 8,
   .wrStatus 0, .wrMsgBase 0, .wrMsgLenLo 0, .wrMsgLenHi 0, .wrId 0, .wrRsvd 6 0, .wrDigest 8 0] ++
  [.rdCtrl 0, .rdStatus 0, .rdMsgBase 0, .rdMsgLenLo 0, .rdMsgLenHi 0, .rdId 0, .rdRsvd 6 0,
   .rdDigestA 0, .rdDigestB 0, .rdDigestC 0, .rdDigestD 0,
   .rdDigestSwapA 0, .rdDigestSwapB 0, .rdDigestSwapC 0, .rdDigestSwapD 0]

/-- One instruction of each row: the rounds and the sequencer steps. -/
def seqRowReps : List Instr :=
  [.roundF 0, .roundG 0, .roundH 0, .roundI 0, .seqLoad, .seqRound, .seqFinish]

/-- The 35 rows of the table. -/
def opcodeTable : List Row := (hostRowReps ++ seqRowReps).map rowOf

/-! ### Words as the opcode table counts their bits -/

/-- Which format a word of nbits bits has. The table gives HOW 37 bits, RIDX 6 and FSM 2; in whole bytes
RIDX and FSM are both 8 bits, and there the words 1, 2 and 3 are read as the sequencer codes LOAD, ROUND
and FINISH and every other word as a round index (log 14). -/
def tableFmt (nbits w : Nat) : Fmt :=
  if 8 < nbits then .how
  else if nbits ≤ 2 then .fsm
  else if nbits < 8 then .ridx
  else if 1 ≤ w ∧ w ≤ 3 then .fsm
  else .ridx

/-- The instruction the decoder reads from a word whose bits the table numbers as w. -/
def decodeTableWord (nbits w : Nat) : Option Instr :=
  match decode ⟨tableFmt nbits w, w⟩ with
  | .ok i => some i
  | .error _ => none

end Sys2Proof
end

