-- ==== Sys2Proof/Machine/Rounds.lean ====
section
/-! DEFINITION. ROUND.*: the four round kinds (43_compression.md R171 to R174), each the ROUND step (R170) of the round index
whose position in its group is p. Enabled iff fsm = ROUND and the round counter is that index (log 11). -/

namespace Sys2Proof.Machine

/-- ROUND.F, rounds 0 to 15 (R171). -/
def execRoundF (p : BitVec 4) (s : State) : Result :=
  whenEnabled (s.roundEnabled (roundIndex 0#2 p)) "ROUND.F"
    (roundStep fnF (gF (roundIndex 0#2 p)) s)

/-- ROUND.G, rounds 16 to 31 (R172). -/
def execRoundG (p : BitVec 4) (s : State) : Result :=
  whenEnabled (s.roundEnabled (roundIndex 1#2 p)) "ROUND.G"
    (roundStep fnG (gG (roundIndex 1#2 p)) s)

/-- ROUND.H, rounds 32 to 47 (R173). -/
def execRoundH (p : BitVec 4) (s : State) : Result :=
  whenEnabled (s.roundEnabled (roundIndex 2#2 p)) "ROUND.H"
    (roundStep fnH (gH (roundIndex 2#2 p)) s)

/-- ROUND.I, rounds 48 to 63 (R174). -/
def execRoundI (p : BitVec 4) (s : State) : Result :=
  whenEnabled (s.roundEnabled (roundIndex 3#2 p)) "ROUND.I"
    (roundStep fnI (gI (roundIndex 3#2 p)) s)

end Sys2Proof.Machine
end

