-- ==== Sys2Proof/Machine/Sequencer.lean ====
section
/-! DEFINITION. SEQ.*: the sequencer steps (42_block_scheduler.md R153; 43_compression.md R170, R176). -/

namespace Sys2Proof.Machine

/-- SEQ.LOAD (R153), or what is left of one that has read some of its bytes. Where a byte is to be read and
the memory does not answer, the LOAD goes on waiting: nothing changes (R263). -/
def execSeqLoad (s : State) : Result :=
  whenEnabled (decide (s.fsm = .load)) "SEQ.LOAD" (if s.loadWaits then s else loadBlock s)

/-- SEQ.ROUND, the generic round step: function and word index by i[5:4] (R170). -/
def execSeqRound (s : State) : Result :=
  whenEnabled (decide (s.fsm = .round)) "SEQ.ROUND" (roundStep (roundFn s.i) (gIndex s.i) s)

/-- SEQ.FINISH (R176). -/
def execSeqFinish (s : State) : Result :=
  whenEnabled (decide (s.fsm = .finish)) "SEQ.FINISH" (finishBlock s)

end Sys2Proof.Machine
end

