-- ==== Sys2Proof/Machine/Dispatch.lean ====
section
/-! DEFINITION. exec: one arm per constructor of Instr, each one call of that instruction's meaning. -/

namespace Sys2Proof.Machine

def exec (i : Instr) (s : State) : Host.Outcome State Fault Refusal :=
  match i with
  | .cmdNop hi => Sys2Proof.Machine.execCmdNop hi s
  | .cmdStart hi => Sys2Proof.Machine.execCmdStart hi s
  | .cmdAbort hi => Sys2Proof.Machine.execCmdAbort hi s
  | .cmdReserved0011 hi => Sys2Proof.Machine.execCmdReserved0011 hi s
  | .cmdReserved01xx hi cmd => Sys2Proof.Machine.execCmdReserved01xx hi cmd s
  | .cmdReserved1xxx hi cmd => Sys2Proof.Machine.execCmdReserved1xxx hi cmd s
  | .wrStatus data => Sys2Proof.Machine.execWrStatus data s
  | .wrMsgBase data => Sys2Proof.Machine.execWrMsgBase data s
  | .wrMsgLenLo data => Sys2Proof.Machine.execWrMsgLenLo data s
  | .wrMsgLenHi data => Sys2Proof.Machine.execWrMsgLenHi data s
  | .wrId data => Sys2Proof.Machine.execWrId data s
  | .wrRsvd idx data => Sys2Proof.Machine.execWrRsvd idx data s
  | .wrDigest idx data => Sys2Proof.Machine.execWrDigest idx data s
  | .rdCtrl data => Sys2Proof.Machine.execRdCtrl data s
  | .rdStatus data => Sys2Proof.Machine.execRdStatus data s
  | .rdMsgBase data => Sys2Proof.Machine.execRdMsgBase data s
  | .rdMsgLenLo data => Sys2Proof.Machine.execRdMsgLenLo data s
  | .rdMsgLenHi data => Sys2Proof.Machine.execRdMsgLenHi data s
  | .rdId data => Sys2Proof.Machine.execRdId data s
  | .rdRsvd idx data => Sys2Proof.Machine.execRdRsvd idx data s
  | .rdDigestA data => Sys2Proof.Machine.execRdDigestA data s
  | .rdDigestB data => Sys2Proof.Machine.execRdDigestB data s
  | .rdDigestC data => Sys2Proof.Machine.execRdDigestC data s
  | .rdDigestD data => Sys2Proof.Machine.execRdDigestD data s
  | .rdDigestSwapA data => Sys2Proof.Machine.execRdDigestSwapA data s
  | .rdDigestSwapB data => Sys2Proof.Machine.execRdDigestSwapB data s
  | .rdDigestSwapC data => Sys2Proof.Machine.execRdDigestSwapC data s
  | .rdDigestSwapD data => Sys2Proof.Machine.execRdDigestSwapD data s
  | .roundF p => Sys2Proof.Machine.execRoundF p s
  | .roundG p => Sys2Proof.Machine.execRoundG p s
  | .roundH p => Sys2Proof.Machine.execRoundH p s
  | .roundI p => Sys2Proof.Machine.execRoundI p s
  | .seqLoad => Sys2Proof.Machine.execSeqLoad s
  | .seqRound => Sys2Proof.Machine.execSeqRound s
  | .seqFinish => Sys2Proof.Machine.execSeqFinish s

end Sys2Proof.Machine
end

