-- ==== Sys2Proof/Machine/Fetch.lean ====
section
/-! DEFINITION. What the next step runs: the core fetches no code (10_state.md R28, R63), so the next
instruction is the host's register access or the sequencer step that fsm enables (00_scope.md R13; log 5), and
how a word of the opcode table is put there (log 16). -/

namespace Sys2Proof.Machine

/-- What a step does next: run an instruction in a state, or take a move that is no instruction. -/
inductive Fetched where
  | run (i : Instr) (s : State)
  | move (r : Host.Outcome State Fault Refusal)

/-- A turn of the sequencer: the step that fsm enables; none while IDLE (R27, R262) or while rst = 1
(R280), and then nothing changes. -/
def fetchTurn (s : State) : Fetched :=
  if s.rst then .move (.next s)
  else match decode ⟨.fsm, (fsmCode s.fsm).toNat⟩ with
    | .ok i => .run i s
    | .error _ => .move (.next s)

/-- A register access: the decoded host operation, ignored while rst = 1 (R211, R280). -/
def fetchAccess (w : BitVec 37) (s : State) : Fetched :=
  if s.rst then .move (.next (ignoreAccess (howWe w) s)) else .run (decodeHow w) s

/-- A move taken in the state it leaves the others of. -/
def fetchMove (e : Move) (s : State) : Fetched :=
  match e with
  | .access w => fetchAccess w s
  | .turn => fetchTurn s
  | .memWrite a b => .move (hostMemWrite a b s)
  | .rst level => .move (.next (setRst level s))
  | .answer on => .move (.next { s with memAck := on })
  | .ack => .move (.next (portCycle s))

/-- What the next step does: the next move, and the sequencer's turn where no move is pending (R158). -/
def fetch (s : State) : Fetched :=
  match s.inputs with
  | [] => fetchTurn s
  | e :: rest => fetchMove e { s with inputs := rest }

/-- A register access put first, the reset pin released. -/
def placeAccess (w : BitVec 37) (s : State) : State :=
  { s with inputs := .access w :: s.inputs, rst := false }

/-- The sequencer's turn put first, in ROUND with this round index, the reset pin released. -/
def placeRound (i : BitVec 6) (s : State) : State :=
  { s with inputs := .turn :: s.inputs, rst := false, fsm := .round, i := i }

/-- The sequencer's turn put first, in the state of this code, the reset pin released and the memory
answering. -/
def placeFsm (c : BitVec 2) (s : State) : State :=
  { s with inputs := .turn :: s.inputs, rst := false, memAck := true, fsm := fsmOfCode c }

/-- The instruction of an opcode-table word made the one the very next step runs (log 14, log 16). -/
def placeTableWord (nbits w : Nat) (s : State) : State :=
  match tableFmt nbits w with
  | .how => placeAccess (BitVec.ofNat 37 w) s
  | .ridx => placeRound (BitVec.ofNat 6 w) s
  | .fsm => placeFsm (BitVec.ofNat 2 w) s

end Sys2Proof.Machine
end

