-- ==== Sys2Proof/Machine/Step.lean ====
section
/-! DEFINITION. One step: the next move of the host, the environment or the sequencer (00_scope.md R13). -/

namespace Sys2Proof.Machine

/-- What was fetched, run: an instruction by exec, a move that is no instruction as it stands. -/
def runFetched : Fetched → Host.Outcome State Fault Refusal
  | .run i t => exec i t
  | .move r => r

/-- One step of the machine. -/
def step (s : State) : Host.Outcome State Fault Refusal := runFetched (fetch s)

/-- The state in which the next step runs the instruction of an opcode-table word. -/
def State.withFetchWord (s : State) (nbits w : Nat) : State := placeTableWord nbits w s

end Sys2Proof.Machine
end

