-- ==== Sys2Proof/Machine/Asm.lean ====
section
/-! DEFINITION. The host's assembler notation and its pseudo-instructions (30_encoding.md R83). -/

namespace Sys2Proof.Machine

/-- WR <REG>, <value> as a host operation word (R83). -/
def asmWrite (r : Reg) (v : Word) : BitVec 37 := howBits 1#1 (regIdx r) v

/-- RD <REG> as a host operation word (R83). -/
def asmRead (r : Reg) : BitVec 37 := howBits 0#1 (regIdx r) 0#32

/-- The pseudo-instructions (R83). -/
inductive Pseudo where
  | nop
  | start
  | abort
  | clrErr
  | setBase (a : Word)
  | setLen (len : DWord)
  | wait
  | hash (a : Word) (len : DWord)
  deriving DecidableEq, Repr

/-- SETLEN (R83). -/
def expandSetLen (len : DWord) : List (BitVec 37) :=
  [asmWrite .msgLenLo (lenLo len), asmWrite .msgLenHi (lenHi len)]

/-- The host operation words of a pseudo-instruction (R83). WAIT is one poll of STATUS: whether the host
polls again is host control flow and not encoded (log 26). -/
def expandPseudo : Pseudo → List (BitVec 37)
  | .nop => [asmWrite .ctrl 0x00000000#32]
  | .start => [asmWrite .ctrl 0x00000001#32]
  | .abort => [asmWrite .ctrl 0x00000002#32]
  | .clrErr => [asmWrite .status 0x00000004#32]
  | .setBase a => [asmWrite .msgBase a]
  | .setLen len => expandSetLen len
  | .wait => [asmRead .status]
  | .hash a len => [asmWrite .msgBase a] ++ expandSetLen len ++ [asmWrite .ctrl 0x00000001#32, asmRead .status]

/-- WAIT polls again: bit 0 of the STATUS word just read is 1 (R83). -/
def pollAgain (s : State) : Bool := s.rdata.getLsbD 0

/-- Host operations as the machine's coming moves. -/
def accesses (ws : List (BitVec 37)) : List Move := ws.map .access

end Sys2Proof.Machine
end

