-- ==== Sys2Proof/Machine/Compress.lean ====
section
/-! DEFINITION. The compression function and the digest as pure functions (43_compression.md R177, R178), and
the digest's byte string and its host-side rendering (44_finalization.md R191, R193). The sequencer does not
call these: they say what its steps amount to. -/

namespace Sys2Proof.Machine

/-- One round of the compression of block x (R177, R111). -/
def roundOn (x : Vector Word 16) (i : BitVec 6) (h : Chain) : Chain :=
  roundChain (roundFn i) (atPos x (gIndex i)) (kRom i) (rRom i) h

/-- The rounds 0 .. n - 1 applied to h (R177). -/
def roundsOn (x : Vector Word 16) (h : Chain) : Nat → Chain
  | 0 => h
  | n + 1 => roundOn x (BitVec.ofNat 6 n) (roundsOn x h n)

/-- A compression runs 64 rounds (R9). -/
def roundsPerBlock : Nat := 64

/-- compress(H, X) (R177). -/
def compress (h : Chain) (x : Vector Word 16) : Chain := addChain h (roundsOn x h roundsPerBlock)

/-- The chaining value after n blocks of a byte stream, from IV: H_n (R178). -/
def chainOf (p : Nat → Byte) : Nat → Chain
  | 0 => iv
  | n + 1 => compress (chainOf p n) (blockWords p n)

/-- The digest of a message of L bytes: H_NBLK over the padded stream (R178). -/
def digestOf (len : DWord) (msg : Nat → Byte) : Chain := chainOf (padded len msg) (nblk len)

/-- The four bytes of a word, least-significant first (R191). -/
def wordBytes (x : Word) : List Byte := [byteOf x 0, byteOf x 1, byteOf x 2, byteOf x 3]

/-- The digest byte string d[0..15] (R191). -/
def digestBytes (x : Chain) : List Byte :=
  wordBytes x.a ++ wordBytes x.b ++ wordBytes x.c ++ wordBytes x.d

/-- One hexadecimal digit in lower case (R193). -/
def hexDigit (n : Nat) : Char := Char.ofNat (if n < 10 then 48 + n else 87 + n)

/-- h8(w): the 8 lower-case hexadecimal digits of a word, most significant first (R193). -/
def hex8 (w : Word) : List Char :=
  [7, 6, 5, 4, 3, 2, 1, 0].map fun k => hexDigit (w.extractLsb' (4 * k) 4).toNat

/-- The host-side reference rendering of A..D (R193; outside the core, 00_scope.md R7). -/
def hexString (x : Chain) : List Char :=
  hex8 (bswap32 x.a) ++ hex8 (bswap32 x.b) ++ hex8 (bswap32 x.c) ++ hex8 (bswap32 x.d)

end Sys2Proof.Machine
end

