-- ==== Sys2Proof/Safety.lean ====
section
/-! DEFINITION. What holds of every state a run reaches (10_state.md, 20_memory.md R53, 60_exceptions.md R251,
70_reset_and_hazards.md R280): the invariants the statements use. Each is a predicate of one state. -/

namespace Sys2Proof.Safety

open Sys2Proof.Machine

/-- STATUS is one of its legal values (R34, R251): ERR = 0 gives code 0, ERR = 1 gives a code 1 to 3, and
BUSY = 1 gives DONE = 0. -/
def StatusLegal (s : State) : Prop :=
  (s.err = false → s.errCode = 0#4) ∧
  (s.err = true → 1 ≤ s.errCode.toNat ∧ s.errCode.toNat ≤ 3) ∧
  (s.busy = true → s.done = false)

/-- MEM_ADDR_W is admitted (R10), the memory has its canonical form, and it lies in the address space (R50). -/
def MemoryLegal (s : State) : Prop :=
  (1 ≤ s.memAddrW ∧ s.memAddrW ≤ 32) ∧ s.mem.wf = true ∧ ∀ c ∈ s.mem, c.1 < 2 ^ s.memAddrW

/-- While BUSY the block being worked on is a block of the message: blk < NBLK (R26). -/
def BlockInMessage (s : State) : Prop := s.busy = true → s.blk.toNat < nblk s.msgLen

/-- The accumulator is where the compression of the snapshot has got to (R157, R175, R177): i rounds in
ROUND, all 64 in FINISH with i = 63. -/
def RoundsDone (s : State) : Prop :=
  (s.fsm = .round → s.acc = roundsOn s.m s.snap s.i.toNat) ∧
  (s.fsm = .finish → s.i = 63#6 ∧ s.acc = roundsOn s.m s.snap roundsPerBlock)

/-- How many blocks of the message have been loaded. -/
def blocksLoaded (s : State) : Nat :=
  match s.fsm with
  | .round | .finish => s.blk.toNat + 1
  | .idle | .load => s.blk.toNat

/-- A LOAD in progress has read at most its block's message bytes, and outside LOAD there is no read in progress
(R51, R53). -/
def FetchedInBlock (s : State) : Prop :=
  (s.fsm ≠ .load → s.fetched = []) ∧ s.fetched.length ≤ blockBytes s.msgLen s.blk.toNat

/-- While BUSY the port has read exactly the message bytes of the blocks loaded and those the LOAD in progress has
read so far, each once, in order (R53). -/
def ReadsInOrder (s : State) : Prop :=
  s.busy = true →
    s.reads = (List.range (min (64 * blocksLoaded s) s.msgLen.toNat + s.fetched.length)).map
      fun j => (s.msgBase.toNat + j) % 2 ^ s.memAddrW

/-- In ROUND and FINISH every padding byte of the block stands in M where the padded stream puts it
(R132, R153). -/
def PaddingInBlock (s : State) : Prop :=
  (s.fsm = .round ∨ s.fsm = .finish) →
    ∀ k n : Nat, (hk : k < 16) → n < 4 → s.msgLen.toNat ≤ 64 * s.blk.toNat + 4 * k + n →
      byteOf s.m[k] n = padByte s.msgLen (64 * s.blk.toNat + 4 * k + n)

/-- The address of message byte j holds the value v, or held it since START (R60 item 4). -/
def HeldSinceStart (s : State) (j : Nat) (v : Byte) : Prop :=
  v = s.mem.read (s.msgAddr j) ∨ (s.msgAddr j, v) ∈ s.raced

/-- Every message byte the core has taken, at the port in LOAD and into M in ROUND and FINISH, is one its address
has held since START (R60 item 4). -/
def HeldBytes (s : State) : Prop :=
  (s.fsm = .load → ∀ q, (hq : q < s.fetched.length) → HeldSinceStart s (64 * s.blk.toNat + q) s.fetched[q]) ∧
  (s.fsm = .round ∨ s.fsm = .finish →
    ∀ k n : Nat, (hk : k < 16) → n < 4 → 64 * s.blk.toNat + 4 * k + n < s.msgLen.toNat →
      HeldSinceStart s (64 * s.blk.toNat + 4 * k + n) (byteOf s.m[k] n))

/-- The host has overwritten no message byte since START (R60 item 4, R285). -/
def Unraced (s : State) : Prop := ∀ c ∈ s.raced, ∀ j, j < s.msgLen.toNat → c.1 ≠ s.msgAddr j

/-- The padded stream of the message as the message memory holds it (R130, R132). -/
def messageStream (s : State) : Nat → Byte := padded s.msgLen fun j => s.mem.read (s.msgAddr j)

/-- While BUSY, no message byte overwritten, the chaining value is that of the blocks finished and M holds the
block (R152, R178): A..D in LOAD, the snapshot and M in ROUND and FINISH. -/
def ChainInOrder (s : State) : Prop :=
  Unraced s →
    (s.fsm = .load → s.acc = chainOf (messageStream s) s.blk.toNat) ∧
    (s.fsm = .round ∨ s.fsm = .finish →
      s.snap = chainOf (messageStream s) s.blk.toNat ∧ s.m = blockWords (messageStream s) s.blk.toNat)

/-- While rst = 1 the core holds its reset state (R280, R281), and the field rdata holds 0 (the model's: R280 gives
the 0 to a read and R210 gives the port no value between reads; log 4, 10). -/
def ResetHeld (s : State) : Prop :=
  s.rst = true →
    s.acc = iv ∧ s.i = 0#6 ∧ s.blk = 0#64 ∧ s.fsm = .idle ∧ s.done = false ∧ s.err = false ∧
    s.errCode = 0#4 ∧ s.msgBase = 0#32 ∧ s.msgLen = 0#64 ∧ s.rdata = 0#32

end Sys2Proof.Safety
end

