-- ==== Sys2Proof/Certificates/Slice0/Obligations.lean ====
section
/-! DEFINITION. The statements for the provers, from the numbered rules of spec/. OBLIGATIONS.json lists them. -/

open Sys2Proof Sys2Proof.Machine Sys2Proof.Safety

/-! ### Encodings (30_encoding.md) -/

/-- Decoding an encoded well-formed instruction gives it back, for every operand value (R70 to R73, R80, R82), the
ignored DATA bits that Instr keeps among them (log 15). -/
def Obligations.DecodeOfEncodeIsTheInstruction : Prop :=
  ∀ i : Instr, i.wf = true → decode (encode i) = .ok i

/-- A word that decodes is the encoding of what it decodes to, and that is well formed (R70 to R73, R80, R82). That
the encoding gives back every bit, DATA[31:4] of a CTRL write and the DATA of a read too, holds because Instr keeps
those ignored bits as operands, which is the model's choice (log 15): R70 itself encodes a read's DATA as 0. -/
def Obligations.EncodeOfDecodeIsTheWord : Prop :=
  ∀ (c : CodeWord) (i : Instr), decode c = .ok i → encode i = c ∧ i.wf = true

/-- Every word of a format, the sequencer code IDLE apart, decodes and selects exactly one row of the opcode
table, the row of the instruction it decodes to (R84). -/
def Obligations.EveryWordSelectsExactlyItsRow : Prop :=
  ∀ c : CodeWord, c.bits < 2 ^ fmtWidth c.fmt → ¬ (c.fmt = .fsm ∧ c.bits = 0) →
    ∃ i, decode c = .ok i ∧ opcodeTable.filter (fun r => r.selects c) = [rowOf i]

/-- Words written out from the encodings decode to the instructions they stand for (95_test_vectors.md 2.9;
30_encoding.md R80, R82). -/
def Obligations.WrittenWordsDecode : Prop :=
  decode ⟨.how, 0b1_0000_0000000000000000000000000000_0001⟩ = .ok (.cmdStart 0#28) ∧
  decode ⟨.how, 0x1000000007⟩ = .ok (.cmdReserved01xx 0#28 7#4) ∧
  decode ⟨.how, 0x1200000100⟩ = .ok (.wrMsgBase 0x100#32) ∧
  decode ⟨.how, 0x1612345678⟩ = .ok (.wrRsvd 6#4 0x12345678#32) ∧
  decode ⟨.how, 0x0c00000000⟩ = .ok (.rdDigestSwapA 0#32) ∧
  decode ⟨.ridx, 0b01_0011⟩ = .ok (.roundG 3#4) ∧
  decode ⟨.fsm, 0b11⟩ = .ok .seqFinish ∧
  decode ⟨.fsm, 0b00⟩ = .error .idleCode

/-- The assembler's pseudo-instructions expand to the words of the instructions R83 names. -/
def Obligations.PseudoInstructionsExpand : Prop :=
  ∀ (a : Word) (len : DWord),
    (expandPseudo .nop).map decodeHow = [.cmdNop 0#28] ∧
    (expandPseudo .start).map decodeHow = [.cmdStart 0#28] ∧
    (expandPseudo .abort).map decodeHow = [.cmdAbort 0#28] ∧
    (expandPseudo .clrErr).map decodeHow = [.wrStatus 4#32] ∧
    (expandPseudo (.setBase a)).map decodeHow = [.wrMsgBase a] ∧
    (expandPseudo (.setLen len)).map decodeHow =
      [.wrMsgLenLo (len.extractLsb' 0 32), .wrMsgLenHi (len.extractLsb' 32 32)] ∧
    (expandPseudo .wait).map decodeHow = [.rdStatus 0#32] ∧
    expandPseudo (.hash a len) =
      expandPseudo (.setBase a) ++ expandPseudo (.setLen len) ++ expandPseudo .start ++ expandPseudo .wait

/-! ### A step runs the decoded instruction -/

/-- The next move is a register access and rst = 0: the step is the decoded access (R211). -/
def Obligations.StepRunsTheDecodedAccess : Prop :=
  ∀ (s : State) (w : BitVec 37) (l : List Move), s.inputs = .access w :: l → s.rst = false →
    decode ⟨.how, w.toNat⟩ = .ok (decodeHow w) ∧
    step s = exec (decodeHow w) { s with inputs := l }

/-- The sequencer has the turn, or no move is pending, and rst = 0: the step is the sequencer step that fsm's
code decodes to (R27, R82, R158), and in ROUND it is as well the round that the round index decodes to (R80);
in IDLE nothing changes (R262). The sequencer going on where no move is pending is the model's (log 5). -/
def Obligations.StepRunsTheEnabledSequencerStep : Prop :=
  ∀ (s : State) (l : List Move), s.rst = false →
    (s.inputs = .turn :: l ∨ (s.inputs = [] ∧ l = [])) →
      (∀ i, decode ⟨.fsm, (fsmCode s.fsm).toNat⟩ = .ok i → step s = exec i { s with inputs := l }) ∧
      (s.fsm = .round → step s = exec (decodeRound s.i) { s with inputs := l }) ∧
      (s.fsm = .idle → step s = .next { s with inputs := l })

/-- While rst = 1 a register write has no effect, a register read returns 0, no sequencer step happens, mem_req is
0 (R280) and so an answer of the memory reads nothing. -/
def Obligations.AccessesAndStepsIgnoredUnderReset : Prop :=
  ∀ (s : State) (l : List Move), s.rst = true →
    s.memReq = false ∧
    (∀ w : BitVec 37, s.inputs = .access w :: l →
      step s = .next (if (decodeHow w).isRead then { s with inputs := l, rdata := 0#32 }
        else { s with inputs := l })) ∧
    (s.inputs = .turn :: l → step s = .next { s with inputs := l }) ∧
    (s.inputs = .ack :: l → step s = .next { s with inputs := l }) ∧
    (s.inputs = [] → step s = .next s)

/-- The moves of the environment. An edge with rst = 1 puts every piece of the core's state to the values R40
states, in whatever state it comes, and withdraws a read in progress (R281); the message memory and MEM_ADDR_W
are not the core's and stay (log 10). An edge with rst = 0 releases the pin and changes nothing else (R280). The
memory's starting or stopping to answer changes mem_ack alone (R51, R263; log 8). That the unspecified registers
take 0 at reset is the model's choice (log 2, 3) and no part of this statement. -/
def Obligations.EnvironmentEdges : Prop :=
  ∀ (s : State) (l : List Move),
    (s.inputs = .rst false :: l → step s = .next { s with inputs := l, rst := false }) ∧
    (∀ on : Bool, s.inputs = .answer on :: l → step s = .next { s with inputs := l, memAck := on }) ∧
    (s.inputs = .rst true :: l → ∃ t, step s = .next t ∧
      t.acc = ⟨0x67452301#32, 0xefcdab89#32, 0x98badcfe#32, 0x10325476#32⟩ ∧
      t.i = 0#6 ∧ t.blk = 0#64 ∧ t.fsm = .idle ∧ t.done = false ∧ t.err = false ∧ t.errCode = 0#4 ∧
      t.msgBase = 0#32 ∧ t.msgLen = 0#64 ∧ t.rst = true ∧ t.fetched = [] ∧
      t.mem = s.mem ∧ t.memAddrW = s.memAddrW ∧ t.memAck = s.memAck ∧ t.inputs = l)

/-- The machine's initial state holds the values R40 states for reset. Its row for the ROMs, constants here, is
RomsAndWordSelection's. -/
def Obligations.ResetStateValues : Prop :=
  State.reset.acc = ⟨0x67452301#32, 0xefcdab89#32, 0x98badcfe#32, 0x10325476#32⟩ ∧
  State.reset.i = 0#6 ∧ State.reset.blk = 0#64 ∧ State.reset.fsm = .idle ∧ State.reset.done = false ∧
  State.reset.err = false ∧ State.reset.errCode = 0#4 ∧ State.reset.msgBase = 0#32 ∧
  State.reset.msgLen = 0#64 ∧ readReg .id State.reset = 0x4D443501#32 ∧ readReg .status State.reset = 0#32

/-- A host write to message memory: the byte written reads back, every other byte reads as before, and while
BUSY the overwritten byte joins those a later LOAD may read (R60 item 4); nothing else changes. Outside the
address space the model faults (log 12). -/
def Obligations.HostMemoryWrite : Prop :=
  ∀ (s : State) (l : List Move) (a : Nat) (b : Byte), s.inputs = .memWrite a b :: l → MemoryLegal s →
    (a < 2 ^ s.memAddrW → ∃ mem', mem'.wf = true ∧
      step s = .next { s with
        inputs := l, mem := mem',
        raced := if s.fsm ≠ .idle then s.raced ++ [(a, s.mem.read a)] else s.raced } ∧
      mem'.read a = b ∧ ∀ x, x ≠ a → mem'.read x = s.mem.read x) ∧
    (2 ^ s.memAddrW ≤ a → step s = .fault (.noSuchAddress a))

/-- The instruction of a code word placed by withFetchWord is the one the very next step runs. The state it
runs in differs from s as the fetch needs: no reset, and for a sequencer step its own fsm, index and an
answering memory (log 14, log 16). -/
def Obligations.PlacedWordRunsNext : Prop :=
  ∀ (s : State) (i : Instr), i.wf = true →
    ∃ u, u.acc = s.acc ∧ u.snap = s.snap ∧ u.m = s.m ∧ u.blk = s.blk ∧ u.mem = s.mem ∧
      u.msgBase = s.msgBase ∧ u.msgLen = s.msgLen ∧ u.fetched = s.fetched ∧ u.inputs = s.inputs ∧
      (i.isSeq = false → u = { s with rst := false }) ∧
      (i.isSeq = true → ∃ t, exec i u = .next t) ∧
      step (s.withFetchWord (fmtWidth (encode i).fmt) (encode i).bits) = exec i u

/-- The machine goes on: no instruction a step runs and no data value stops it (R250, R253). Only a host write
to a memory address that does not exist is excluded (log 12). -/
def Obligations.MachineNeverStops : Prop :=
  ∀ s : State, (∀ a b l, s.inputs = .memWrite a b :: l → a < 2 ^ s.memAddrW) → ∃ t, step s = .next t

/-! ### Commands and register writes (45_host_interface.md R212 to R222) -/

/-- CMD.NOP, WR.ID, WR.RSVD and WR.DIGEST change nothing, in every state (R212, R220, R221, R222). -/
def Obligations.IgnoredWritesChangeNothing : Prop :=
  ∀ (s : State) (hi : BitVec 28) (d : Word) (idx : BitVec 4),
    (decodeHow (howBits 1#1 0#4 (hi ++ 0#4)) = .cmdNop hi ∧ exec (.cmdNop hi) s = .next s) ∧
    (decodeHow (howBits 1#1 5#4 d) = .wrId d ∧ exec (.wrId d) s = .next s) ∧
    (idx.toNat = 6 ∨ idx.toNat = 7 →
      decodeHow (howBits 1#1 idx d) = .wrRsvd idx d ∧ exec (.wrRsvd idx d) s = .next s) ∧
    (8 ≤ idx.toNat →
      decodeHow (howBits 1#1 idx d) = .wrDigest idx d ∧ exec (.wrDigest idx d) s = .next s)

/-- CMD.START in IDLE begins a message; while BUSY it is refused with error 1 and nothing else changes, the
first error being kept (R213, R12). No read is in progress (log 8); `raced`, `draws` and `reads` are the model's own
fields (log 7, log 24). -/
def Obligations.StartBeginsAMessageOrIsRefused : Prop :=
  ∀ (s : State) (hi : BitVec 28),
    decodeHow (howBits 1#1 0#4 (hi ++ 1#4)) = .cmdStart hi ∧
    (s.fsm = .idle →
      exec (.cmdStart hi) s = .next { s with
        acc := ⟨0x67452301#32, 0xefcdab89#32, 0x98badcfe#32, 0x10325476#32⟩,
        blk := 0#64, done := false, fsm := .load, fetched := [], raced := [], draws := s.draws + 1, reads := [] }) ∧
    (s.fsm ≠ .idle →
      exec (.cmdStart hi) s = .next (if s.err then s else { s with err := true, errCode := 1#4 }))

/-- CMD.ABORT, in every state: IDLE at once, DONE and the counters cleared, A..D = IV, a memory read in progress
withdrawn and its data discarded, nothing else (R214). -/
def Obligations.AbortReturnsToIdle : Prop :=
  ∀ (s : State) (hi : BitVec 28),
    decodeHow (howBits 1#1 0#4 (hi ++ 2#4)) = .cmdAbort hi ∧
    exec (.cmdAbort hi) s = .next { s with
      fsm := .idle, done := false, i := 0#6, blk := 0#64, fetched := [],
      acc := ⟨0x67452301#32, 0xefcdab89#32, 0x98badcfe#32, 0x10325476#32⟩ }

/-- Every reserved command code 3 to 15 raises error 2 in every state and does nothing else, the first error
being kept; its word decodes to it whatever DATA[31:4] holds (R215, R75). -/
def Obligations.ReservedCommandsRaiseErrorTwo : Prop :=
  ∀ (s : State) (hi : BitVec 28) (cmd : BitVec 4), 3 ≤ cmd.toNat →
    ∃ i, decodeHow (howBits 1#1 0#4 (hi ++ cmd)) = i ∧
      (cmd.toNat = 3 → i = .cmdReserved0011 hi) ∧
      (4 ≤ cmd.toNat ∧ cmd.toNat ≤ 7 → i = .cmdReserved01xx hi cmd) ∧
      (8 ≤ cmd.toNat → i = .cmdReserved1xxx hi cmd) ∧
      exec i s = .next (if s.err then s else { s with err := true, errCode := 2#4 })

/-- WR.STATUS: bit 2 clears ERR and ERR_CODE, every other bit is ignored, in every state (R216). -/
def Obligations.StatusWriteClearsTheError : Prop :=
  ∀ (s : State) (d : Word),
    decodeHow (howBits 1#1 1#4 d) = .wrStatus d ∧
    (d.getLsbD 2 = true → exec (.wrStatus d) s = .next { s with err := false, errCode := 0#4 }) ∧
    (d.getLsbD 2 = false → exec (.wrStatus d) s = .next s)

/-- WR.MSG_BASE: BASE <- DATA in IDLE, refused with error 3 while BUSY (R217). -/
def Obligations.BaseWrite : Prop :=
  ∀ (s : State) (d : Word),
    decodeHow (howBits 1#1 2#4 d) = .wrMsgBase d ∧
    (s.fsm = .idle → exec (.wrMsgBase d) s = .next { s with msgBase := d }) ∧
    (s.fsm ≠ .idle →
      exec (.wrMsgBase d) s = .next (if s.err then s else { s with err := true, errCode := 3#4 }))

/-- WR.MSG_LEN_LO and WR.MSG_LEN_HI: one half of L <- DATA in IDLE, the other unchanged; refused with error 3
while BUSY (R218, R219). -/
def Obligations.LengthWrites : Prop :=
  ∀ (s : State) (d : Word),
    decodeHow (howBits 1#1 3#4 d) = .wrMsgLenLo d ∧
    decodeHow (howBits 1#1 4#4 d) = .wrMsgLenHi d ∧
    (s.fsm = .idle → ∃ len : DWord, len.toNat = s.msgLen.toNat / 2 ^ 32 * 2 ^ 32 + d.toNat ∧
      exec (.wrMsgLenLo d) s = .next { s with msgLen := len }) ∧
    (s.fsm = .idle → ∃ len : DWord, len.toNat = d.toNat * 2 ^ 32 + s.msgLen.toNat % 2 ^ 32 ∧
      exec (.wrMsgLenHi d) s = .next { s with msgLen := len }) ∧
    (s.fsm ≠ .idle →
      exec (.wrMsgLenLo d) s = .next (if s.err then s else { s with err := true, errCode := 3#4 }) ∧
      exec (.wrMsgLenHi d) s = .next (if s.err then s else { s with err := true, errCode := 3#4 }))

/-! ### Register reads (R223 to R237). That the value stands in `rdata` is the model's (log 4). -/

/-- RD.CTRL, RD.ID and RD.RSVD return their constants in every state and change nothing else
(R223, R228, R229). -/
def Obligations.ConstantReads : Prop :=
  ∀ (s : State) (d : Word) (idx : BitVec 4),
    (decodeHow (howBits 0#1 0#4 d) = .rdCtrl d ∧
      exec (.rdCtrl d) s = .next { s with rdata := 0x00000000#32 }) ∧
    (decodeHow (howBits 0#1 5#4 d) = .rdId d ∧
      exec (.rdId d) s = .next { s with rdata := 0x4D443501#32 }) ∧
    (idx.toNat = 6 ∨ idx.toNat = 7 →
      decodeHow (howBits 0#1 idx d) = .rdRsvd idx d ∧
      exec (.rdRsvd idx d) s = .next { s with rdata := 0x00000000#32 })

/-- RD.STATUS returns BUSY + 2*DONE + 4*ERR + 16*ERR_CODE and changes nothing else (R224). -/
def Obligations.StatusRead : Prop :=
  ∀ (s : State) (d : Word),
    decodeHow (howBits 0#1 1#4 d) = .rdStatus d ∧
    ∃ v : Word, exec (.rdStatus d) s = .next { s with rdata := v } ∧
      v.toNat = (if s.fsm ≠ .idle then 1 else 0) + 2 * s.done.toNat + 4 * s.err.toNat + 16 * s.errCode.toNat

/-- The output busy equals STATUS.BUSY and done equals STATUS.DONE, as a STATUS read in any state shows (R238); the
reserved bits 3 and 31:8 of STATUS read 0. -/
def Obligations.OutputsMirrorStatus : Prop :=
  ∀ (s : State) (d : Word), ∃ t, exec (.rdStatus d) s = .next t ∧
    s.busyPin = t.rdata.getLsbD 0 ∧ s.donePin = t.rdata.getLsbD 1 ∧
    t.rdata.getLsbD 3 = false ∧ ∀ n, 8 ≤ n → t.rdata.getLsbD n = false

/-- RD.MSG_BASE, RD.MSG_LEN_LO and RD.MSG_LEN_HI return BASE and the halves of L, while BUSY too, and change
nothing else (R225, R226, R227). -/
def Obligations.ConfigurationReads : Prop :=
  ∀ (s : State) (d : Word),
    decodeHow (howBits 0#1 2#4 d) = .rdMsgBase d ∧
    decodeHow (howBits 0#1 3#4 d) = .rdMsgLenLo d ∧
    decodeHow (howBits 0#1 4#4 d) = .rdMsgLenHi d ∧
    exec (.rdMsgBase d) s = .next { s with rdata := s.msgBase } ∧
    exec (.rdMsgLenLo d) s = .next { s with rdata := BitVec.ofNat 32 s.msgLen.toNat } ∧
    exec (.rdMsgLenHi d) s = .next { s with rdata := BitVec.ofNat 32 (s.msgLen.toNat / 2 ^ 32) }

/-- RD.DIGEST_A..D return 0 while BUSY and A..D in IDLE, and change nothing else (R230 to R233). -/
def Obligations.DigestReads : Prop :=
  ∀ (s : State) (d : Word),
    decodeHow (howBits 0#1 8#4 d) = .rdDigestA d ∧
    decodeHow (howBits 0#1 9#4 d) = .rdDigestB d ∧
    decodeHow (howBits 0#1 10#4 d) = .rdDigestC d ∧
    decodeHow (howBits 0#1 11#4 d) = .rdDigestD d ∧
    exec (.rdDigestA d) s = .next { s with rdata := if s.fsm ≠ .idle then 0#32 else s.acc.a } ∧
    exec (.rdDigestB d) s = .next { s with rdata := if s.fsm ≠ .idle then 0#32 else s.acc.b } ∧
    exec (.rdDigestC d) s = .next { s with rdata := if s.fsm ≠ .idle then 0#32 else s.acc.c } ∧
    exec (.rdDigestD d) s = .next { s with rdata := if s.fsm ≠ .idle then 0#32 else s.acc.d }

/-- RD.DIGEST_SWAP_A..D return 0 while BUSY and the byte-swapped A..D in IDLE, and change nothing else
(R234 to R237). -/
def Obligations.DigestSwapReads : Prop :=
  ∀ (s : State) (d : Word),
    decodeHow (howBits 0#1 12#4 d) = .rdDigestSwapA d ∧
    decodeHow (howBits 0#1 13#4 d) = .rdDigestSwapB d ∧
    decodeHow (howBits 0#1 14#4 d) = .rdDigestSwapC d ∧
    decodeHow (howBits 0#1 15#4 d) = .rdDigestSwapD d ∧
    exec (.rdDigestSwapA d) s = .next { s with rdata := if s.fsm ≠ .idle then 0#32 else bswap32 s.acc.a } ∧
    exec (.rdDigestSwapB d) s = .next { s with rdata := if s.fsm ≠ .idle then 0#32 else bswap32 s.acc.b } ∧
    exec (.rdDigestSwapC d) s = .next { s with rdata := if s.fsm ≠ .idle then 0#32 else bswap32 s.acc.c } ∧
    exec (.rdDigestSwapD d) s = .next { s with rdata := if s.fsm ≠ .idle then 0#32 else bswap32 s.acc.d }

/-! ### Rounds (43_compression.md R170 to R175) -/

/-- ROUND.F, round index p: the accumulator after it, the counter moved on, nothing else (R171). -/
def Obligations.RoundFResult : Prop :=
  ∀ (s : State) (p : BitVec 4), s.fsm = .round → s.i = 0#2 ++ p →
    exec (.roundF p) s = .next { s with
      acc := ⟨s.acc.d,
        rotl32 (s.acc.a + ((s.acc.b &&& s.acc.c) ||| (~~~s.acc.b &&& s.acc.d)) + s.m[p.toNat]'p.isLt
          + kRom (0#2 ++ p)) (rRom (0#2 ++ p)) + s.acc.b, s.acc.b, s.acc.c⟩,
      i := s.i + 1#6 }

/-- ROUND.G, round index 16 + p, word index (5i + 1) mod 16 (R172). -/
def Obligations.RoundGResult : Prop :=
  ∀ (s : State) (p : BitVec 4), s.fsm = .round → s.i = 1#2 ++ p →
    exec (.roundG p) s = .next { s with
      acc := ⟨s.acc.d,
        rotl32 (s.acc.a + ((s.acc.d &&& s.acc.b) ||| (~~~s.acc.d &&& s.acc.c))
          + s.m[(5 * s.i.toNat + 1) % 16]'(Nat.mod_lt _ (by decide)) + kRom (1#2 ++ p)) (rRom (1#2 ++ p))
          + s.acc.b, s.acc.b, s.acc.c⟩,
      i := s.i + 1#6 }

/-- ROUND.H, round index 32 + p, word index (3i + 5) mod 16 (R173). -/
def Obligations.RoundHResult : Prop :=
  ∀ (s : State) (p : BitVec 4), s.fsm = .round → s.i = 2#2 ++ p →
    exec (.roundH p) s = .next { s with
      acc := ⟨s.acc.d,
        rotl32 (s.acc.a + (s.acc.b ^^^ s.acc.c ^^^ s.acc.d)
          + s.m[(3 * s.i.toNat + 5) % 16]'(Nat.mod_lt _ (by decide)) + kRom (2#2 ++ p)) (rRom (2#2 ++ p))
          + s.acc.b, s.acc.b, s.acc.c⟩,
      i := s.i + 1#6 }

/-- ROUND.I, round index 48 + p, word index 7i mod 16; index 63 ends the rounds (R174, R175). -/
def Obligations.RoundIResult : Prop :=
  ∀ (s : State) (p : BitVec 4), s.fsm = .round → s.i = 3#2 ++ p →
    exec (.roundI p) s = .next { s with
      acc := ⟨s.acc.d,
        rotl32 (s.acc.a + (s.acc.c ^^^ (s.acc.b ||| ~~~s.acc.d))
          + s.m[(7 * s.i.toNat) % 16]'(Nat.mod_lt _ (by decide)) + kRom (3#2 ++ p)) (rRom (3#2 ++ p))
          + s.acc.b, s.acc.b, s.acc.c⟩,
      i := if p = 15#4 then s.i else s.i + 1#6,
      fsm := if p = 15#4 then .finish else .round }

/-- SEQ.ROUND in ROUND is the round kind its index selects, and it completes: A, C and D take the old D, B and
C, i goes on to 63 and then fsm to FINISH (R170, R175). -/
def Obligations.GenericRoundIsTheSelectedRound : Prop :=
  ∀ s : State, s.fsm = .round →
    exec .seqRound s = exec (decodeRound s.i) s ∧
    ∃ temp : Word, exec .seqRound s = .next { s with
      acc := ⟨s.acc.d, temp, s.acc.b, s.acc.c⟩,
      i := if s.i = 63#6 then 63#6 else s.i + 1#6,
      fsm := if s.i = 63#6 then .finish else .round } ∧
      temp = rotl32 (s.acc.a + roundFn s.i s.acc.b s.acc.c s.acc.d + atPos s.m (gIndex s.i) + kRom s.i)
        (rRom s.i) + s.acc.b

/-! ### LOAD and FINISH (R153, R176) -/

/-- SEQ.LOAD of block blk, no message byte raced, and the memory answering or all the block's message bytes read
already: M takes the words of the padded stream, a byte read already as it was read; the snapshot takes the
accumulator, i is 0, fsm ROUND; the addresses read are those of the block's message bytes that were left, in
order; nothing else changes (R153, R132, R53). `fetched` holds what a LOAD in progress has read (log 8) and `reads`
is the model's own trace (log 24). For a block beyond the padded stream, where R132 gives no byte and no run comes,
the clause on p states the model's choice (log 13). -/
def Obligations.LoadFetchesTheBlock : Prop :=
  ∀ s : State, s.fsm = .load → s.raced = [] →
    (s.memAck = true ∨ min 64 (s.msgLen.toNat - 64 * s.blk.toNat) ≤ s.fetched.length) →
    ∃ (m' : Vector Word 16) (p : Nat → Byte),
      (∀ j, 64 * s.blk.toNat ≤ j → p j =
        if j < s.msgLen.toNat then
          (s.fetched[j - 64 * s.blk.toNat]?).getD (s.mem.read ((s.msgBase.toNat + j) % 2 ^ s.memAddrW))
        else if j = s.msgLen.toNat then 0x80#8
        else if j < 64 * nblk s.msgLen - 8 then 0x00#8
        else (BitVec.ofNat 64 (8 * s.msgLen.toNat)).extractLsb' (8 * (j - (64 * nblk s.msgLen - 8))) 8) ∧
      (∀ k (hk : k < 16), m'[k] = le32 (p (64 * s.blk.toNat + 4 * k)) (p (64 * s.blk.toNat + 4 * k + 1))
        (p (64 * s.blk.toNat + 4 * k + 2)) (p (64 * s.blk.toNat + 4 * k + 3))) ∧
      exec .seqLoad s = .next { s with
        m := m', snap := s.acc, i := 0#6, fsm := .round, fetched := [],
        reads := s.reads ++ (List.range' (64 * s.blk.toNat + s.fetched.length)
          (min 64 (s.msgLen.toNat - 64 * s.blk.toNat) - s.fetched.length)).map
            fun j => (s.msgBase.toNat + j) % 2 ^ s.memAddrW }

/-- SEQ.LOAD completes in LOAD whether or not bytes raced. A message byte it takes is the one read already at the
port, else one its address holds now or held since START, which of them being free (log 7); padding bytes do not
depend on the memory (R153, R60 item 4; beyond the padded stream log 13). -/
def Obligations.LoadTakesOnlyHeldBytes : Prop :=
  ∀ s : State, s.fsm = .load →
    (s.memAck = true ∨ min 64 (s.msgLen.toNat - 64 * s.blk.toNat) ≤ s.fetched.length) →
    ∃ t, exec .seqLoad s = .next t ∧ t.fsm = .round ∧ t.snap = s.acc ∧ t.mem = s.mem ∧ t.raced = s.raced ∧
      ∀ k n (hk : k < 16), n < 4 →
        (∀ hq : 4 * k + n < s.fetched.length, 64 * s.blk.toNat + 4 * k + n < s.msgLen.toNat →
          byteOf t.m[k] n = s.fetched[4 * k + n]) ∧
        (s.fetched.length ≤ 4 * k + n → 64 * s.blk.toNat + 4 * k + n < s.msgLen.toNat →
          byteOf t.m[k] n = s.mem.read (s.msgAddr (64 * s.blk.toNat + 4 * k + n)) ∨
          (s.msgAddr (64 * s.blk.toNat + 4 * k + n), byteOf t.m[k] n) ∈ s.raced) ∧
        (s.msgLen.toNat ≤ 64 * s.blk.toNat + 4 * k + n →
          byteOf t.m[k] n = padByte s.msgLen (64 * s.blk.toNat + 4 * k + n))

/-- The memory port (R51, R53). mem_req is 1 exactly from the beginning of a LOAD until the last message byte of its
block is read, rst being 0, whatever mem_ack is, and mem_addr is then the address of the byte being read. R51 holds
it only until the cycle with mem_ack = 1 of each read: that it stands from the beginning of the LOAD and does not
fall between two reads is the model's choice (log 28). While it is 1: a turn finds the LOAD waiting if the memory does not answer (R263); no register access but ABORT, which
withdraws the request (R214), changes mem_req or mem_addr; a cycle with mem_ack = 1 reads the byte at mem_addr, one
it holds or, raced, held since START (log 7), and moves on to the next; and reading a byte first leaves SEQ.LOAD
with the same end, so that a LOAD is one step (R153). Without a request a cycle with mem_ack = 1 reads nothing.
That a LOAD reads its remaining bytes within one turn, or some of them in cycles of their own, is the model's form
of it (log 8, 9), and `reads` is its trace (log 24). -/
def Obligations.MemoryPort : Prop :=
  ∀ s : State,
    (s.memReq = true ↔
      s.rst = false ∧ s.fsm = .load ∧ s.fetched.length < min 64 (s.msgLen.toNat - 64 * s.blk.toNat)) ∧
    s.memAddr = (s.msgBase.toNat + (64 * s.blk.toNat + s.fetched.length)) % 2 ^ s.memAddrW ∧
    (s.memReq = true →
      (s.memAck = false → exec .seqLoad s = .next s) ∧
      (∀ (i : Instr) (t : State), i.isSeq = false → exec i s = .next t →
        (t.memReq = true ∧ t.memAddr = s.memAddr) ∨ (t.memReq = false ∧ t.fsm = .idle ∧ ∃ hi, i = .cmdAbort hi)) ∧
      ∀ l, s.inputs = .ack :: l → ∃ v : Byte,
        (v = s.mem.read s.memAddr ∨ (s.memAddr, v) ∈ s.raced) ∧
        step s = .next { s with inputs := l, fetched := s.fetched ++ [v], reads := s.reads ++ [s.memAddr] } ∧
        (s.memAck = true →
          exec .seqLoad { s with fetched := s.fetched ++ [v], reads := s.reads ++ [s.memAddr] } =
            exec .seqLoad s)) ∧
    (s.memReq = false → ∀ l, s.inputs = .ack :: l → step s = .next { s with inputs := l })

/-- SEQ.FINISH adds the snapshot word by word, counts the block, and ends the message after block NBLK - 1,
else goes on to LOAD; nothing else changes (R176). -/
def Obligations.FinishAddsTheSnapshot : Prop :=
  ∀ s : State, s.fsm = .finish →
    exec .seqFinish s = .next { s with
      acc := ⟨s.snap.a + s.acc.a, s.snap.b + s.acc.b, s.snap.c + s.acc.c, s.snap.d + s.acc.d⟩,
      blk := s.blk + 1#64,
      fsm := if s.blk.toNat + 1 = (s.msgLen.toNat + 8) / 64 + 1 then .idle else .load,
      done := if s.blk.toNat + 1 = (s.msgLen.toNat + 8) / 64 + 1 then true else s.done }

/-- A sequencer step asked for where it is not enabled has no effect the spec gives; the model refuses it
(R27, R153, R170, R176; log 11). -/
def Obligations.DisabledSequencerStepsAreRefused : Prop :=
  ∀ (s : State) (p : BitVec 4),
    (s.fsm ≠ .load → exec .seqLoad s = .refused (.notEnabled "SEQ.LOAD")) ∧
    (s.fsm ≠ .round → exec .seqRound s = .refused (.notEnabled "SEQ.ROUND")) ∧
    (s.fsm ≠ .finish → exec .seqFinish s = .refused (.notEnabled "SEQ.FINISH")) ∧
    (s.fsm ≠ .round ∨ s.i ≠ 0#2 ++ p → exec (.roundF p) s = .refused (.notEnabled "ROUND.F")) ∧
    (s.fsm ≠ .round ∨ s.i ≠ 1#2 ++ p → exec (.roundG p) s = .refused (.notEnabled "ROUND.G")) ∧
    (s.fsm ≠ .round ∨ s.i ≠ 2#2 ++ p → exec (.roundH p) s = .refused (.notEnabled "ROUND.H")) ∧
    (s.fsm ≠ .round ∨ s.i ≠ 3#2 ++ p → exec (.roundI p) s = .refused (.notEnabled "ROUND.I"))

/-! ### The ALU, the ROMs, the padding, the byte order -/

/-- ROTL32 is the arithmetic of R105 for amounts 1 to 31: bit k of the result is bit (k - n) mod 32 of x; other
amounts act modulo 32 and 0 is the identity (R105). -/
def Obligations.RotateLeftArithmetic : Prop :=
  ∀ (x : Word) (n : Nat),
    (1 ≤ n → n ≤ 31 →
      (rotl32 x n).toNat = x.toNat * 2 ^ n % 2 ^ 32 + x.toNat / 2 ^ (32 - n) ∧
      ∀ k, k < 32 → (rotl32 x n).getLsbD k = x.getLsbD ((k + 32 - n) % 32)) ∧
    rotl32 x n = rotl32 x (n % 32) ∧ rotl32 x 0 = x

/-- ADD32, AND32, OR32, XOR32 and NOT32 as R100 to R104 state them. -/
def Obligations.AluPrimitives : Prop :=
  ∀ x y : Word,
    (add32 x y).toNat = (x.toNat + y.toNat) % 2 ^ 32 ∧
    (not32 x).toNat = 0xFFFFFFFF - x.toNat ∧
    ∀ n, n < 32 →
      (and32 x y).getLsbD n = (x.getLsbD n && y.getLsbD n) ∧
      (or32 x y).getLsbD n = (x.getLsbD n || y.getLsbD n) ∧
      (xor32 x y).getLsbD n = Bool.xor (x.getLsbD n) (y.getLsbD n)

/-- F, G, H and I bit by bit: b selects c or d; d selects b or c; parity; c xor (b or not d) (R107 to R110). -/
def Obligations.RoundFunctionsBitByBit : Prop :=
  ∀ (b c d : Word) (n : Nat), n < 32 →
    (fnF b c d).getLsbD n = (if b.getLsbD n then c.getLsbD n else d.getLsbD n) ∧
    (fnG b c d).getLsbD n = (if d.getLsbD n then b.getLsbD n else c.getLsbD n) ∧
    (fnH b c d).getLsbD n = Bool.xor (Bool.xor (b.getLsbD n) (c.getLsbD n)) (d.getLsbD n) ∧
    (fnI b c d).getLsbD n = Bool.xor (c.getLsbD n) (b.getLsbD n || !d.getLsbD n)

/-- The round-constant ROM holds the 64 values of R30's table, K[0] first (R30's formula by the sine, from which the
spec computed them, is not restated, so the statement's cites leave R30 out; log 19). The rotation amounts are S[i div 16][i mod 4], all in [4, 23] (R31), g follows its four
formulas (R154), and within each group g takes every value exactly once (R81). -/
def Obligations.RomsAndWordSelection : Prop :=
  (List.finRange 64).map (fun i => kRom (BitVec.ofFin i)) =
    [0xd76aa478#32, 0xe8c7b756#32, 0x242070db#32, 0xc1bdceee#32, 0xf57c0faf#32, 0x4787c62a#32, 0xa8304613#32,
     0xfd469501#32, 0x698098d8#32, 0x8b44f7af#32, 0xffff5bb1#32, 0x895cd7be#32, 0x6b901122#32, 0xfd987193#32,
     0xa679438e#32, 0x49b40821#32] ++
    [0xf61e2562#32, 0xc040b340#32, 0x265e5a51#32, 0xe9b6c7aa#32, 0xd62f105d#32, 0x02441453#32, 0xd8a1e681#32,
     0xe7d3fbc8#32, 0x21e1cde6#32, 0xc33707d6#32, 0xf4d50d87#32, 0x455a14ed#32, 0xa9e3e905#32, 0xfcefa3f8#32,
     0x676f02d9#32, 0x8d2a4c8a#32] ++
    [0xfffa3942#32, 0x8771f681#32, 0x6d9d6122#32, 0xfde5380c#32, 0xa4beea44#32, 0x4bdecfa9#32, 0xf6bb4b60#32,
     0xbebfbc70#32, 0x289b7ec6#32, 0xeaa127fa#32, 0xd4ef3085#32, 0x04881d05#32, 0xd9d4d039#32, 0xe6db99e5#32,
     0x1fa27cf8#32, 0xc4ac5665#32] ++
    [0xf4292244#32, 0x432aff97#32, 0xab9423a7#32, 0xfc93a039#32, 0x655b59c3#32, 0x8f0ccc92#32, 0xffeff47d#32,
     0x85845dd1#32, 0x6fa87e4f#32, 0xfe2ce6e0#32, 0xa3014314#32, 0x4e0811a1#32, 0xf7537e82#32, 0xbd3af235#32,
     0x2ad7d2bb#32, 0xeb86d391#32] ∧
  (∀ i : BitVec 6,
    rRom i = (([[7, 12, 17, 22], [5, 9, 14, 20], [4, 11, 16, 23], [6, 10, 15, 21]] : List (List Nat)).getD
      (i.toNat / 16) []).getD (i.toNat % 4) 0 ∧
    4 ≤ rRom i ∧ rRom i ≤ 23 ∧
    (gIndex i).toNat =
      (if i.toNat < 16 then i.toNat else if i.toNat < 32 then 5 * i.toNat + 1
        else if i.toNat < 48 then 3 * i.toNat + 5 else 7 * i.toNat) % 16) ∧
  ∀ (kind : BitVec 2) (g : BitVec 4), ∃ p : BitVec 4, gIndex (kind ++ p) = g ∧
    ∀ q : BitVec 4, gIndex (kind ++ q) = g → q = p

/-- NBLK is the least n with 64n >= L + 9, at least 1 and at most 2^58 + 1, and the zero fill Z = 64*NBLK - L - 9
is (55 - L) mod 64 (R151, R134). -/
def Obligations.BlockCountAndZeroFill : Prop :=
  ∀ len : DWord,
    (∀ n : Nat, nblk len ≤ n ↔ len.toNat + 9 ≤ 64 * n) ∧ 1 ≤ nblk len ∧ nblk len ≤ 2 ^ 58 + 1 ∧
    (64 * (nblk len : Int) - (len.toNat : Int) - 9 = (55 - (len.toNat : Int)) % 64)

/-- The padded stream byte by byte, in the four cases of R132 with lenbits of R131; and M[14] and M[15] of the
last block are lenbits[31:0] and lenbits[63:32] (R135). -/
def Obligations.PaddedStreamAndLengthField : Prop :=
  ∀ (len : DWord) (msg : Nat → Byte),
    (∀ j, j < len.toNat → padded len msg j = msg j) ∧
    padded len msg len.toNat = 0x80#8 ∧
    (∀ j, len.toNat < j → j < 64 * nblk len - 8 → padded len msg j = 0x00#8) ∧
    (∀ k, k < 8 → (padded len msg (64 * nblk len - 8 + k)).toNat =
      8 * len.toNat % 2 ^ 64 / 2 ^ (8 * k) % 2 ^ 8) ∧
    (blockWord (padded len msg) (nblk len - 1) 14).toNat = 8 * len.toNat % 2 ^ 64 % 2 ^ 32 ∧
    (blockWord (padded len msg) (nblk len - 1) 15).toNat = 8 * len.toNat % 2 ^ 64 / 2 ^ 32

/-- le32, BSWAP32 and the digest byte string: little-endian assembly, the swap reverses the bytes and is its own
inverse, and d[4k + n] is byte n of the k-th word (R155, R190, R191, R192). -/
def Obligations.ByteOrder : Prop :=
  (∀ q0 q1 q2 q3 : Byte,
    (le32 q0 q1 q2 q3).toNat = q0.toNat + 2 ^ 8 * q1.toNat + 2 ^ 16 * q2.toNat + 2 ^ 24 * q3.toNat) ∧
  (∀ x : Word, bswap32 (bswap32 x) = x ∧
    ∀ n, n < 4 → byteOf (bswap32 x) (3 - n) = byteOf x n) ∧
  ∀ x : Chain, digestBytes x =
    [byteOf x.a 0, byteOf x.a 1, byteOf x.a 2, byteOf x.a 3, byteOf x.b 0, byteOf x.b 1, byteOf x.b 2,
     byteOf x.b 3, byteOf x.c 0, byteOf x.c 1, byteOf x.c 2, byteOf x.c 3, byteOf x.d 0, byteOf x.d 1,
     byteOf x.d 2, byteOf x.d 3]

/-! ### Rules of the whole machine: who writes what -/

/-- Only an accepted START, ABORT, a ROUND and FINISH change the accumulator (R20; reset is no instruction). -/
def Obligations.OnlyTheseWriteTheAccumulator : Prop :=
  ∀ (i : Instr) (s t : State), exec i s = .next t → t.acc ≠ s.acc →
    (∃ hi, i = .cmdStart hi ∧ s.fsm = .idle) ∨ (∃ hi, i = .cmdAbort hi) ∨
    (s.fsm = .round ∧ (i = .seqRound ∨ ∃ p, i = .roundF p ∨ i = .roundG p ∨ i = .roundH p ∨ i = .roundI p)) ∨
    (s.fsm = .finish ∧ i = .seqFinish)

/-- What no instruction changes: the message memory byte by byte, MEM_ADDR_W, the pins and the pending moves. Only
LOAD changes the snapshot and the block buffer (R23, R24), and only it and START the port's trace (log 24); only START
begins the race record anew (log 7); only LOAD, START and ABORT end a read in progress (log 8), and START alone
counts draws (log 7); only a read changes reg_rdata, and it changes nothing else (R211; log 4); no sequencer step
changes ERR, ERR_CODE, MSG_BASE or MSG_LEN (R256, R138). -/
def Obligations.InstructionFrame : Prop :=
  ∀ (i : Instr) (s t : State), exec i s = .next t →
    t.mem = s.mem ∧ (∀ a, t.mem.read a = s.mem.read a) ∧ t.memAddrW = s.memAddrW ∧ t.rst = s.rst ∧
    t.memAck = s.memAck ∧ t.inputs = s.inputs ∧
    (i ≠ .seqLoad → t.snap = s.snap ∧ t.m = s.m ∧
      (t.reads = s.reads ∨ ∃ hi, i = .cmdStart hi ∧ t.reads = [])) ∧
    ((t.raced = s.raced ∧ t.draws = s.draws) ∨
      ∃ hi, i = .cmdStart hi ∧ t.raced = [] ∧ t.draws = s.draws + 1) ∧
    (t.fetched = s.fetched ∨ t.fetched = [] ∧ (i = .seqLoad ∨ ∃ hi, i = .cmdStart hi ∨ i = .cmdAbort hi)) ∧
    (i.isRead = false → t.rdata = s.rdata) ∧
    (i.isRead = true → t = { s with rdata := t.rdata }) ∧
    (i.isSeq = true → t.err = s.err ∧ t.errCode = s.errCode ∧ t.msgBase = s.msgBase ∧ t.msgLen = s.msgLen)

/-- ERR goes from 0 to 1 only by the causes of R251, each with its code, and then nothing but ERR and ERR_CODE
changes (R251, R252). -/
def Obligations.ErrorsArePreciseWithTheirCause : Prop :=
  ∀ (i : Instr) (s t : State), exec i s = .next t → s.err = false → t.err = true →
    t = { s with err := true, errCode := t.errCode } ∧
    ((t.errCode = 1#4 ∧ s.fsm ≠ .idle ∧ ∃ hi, i = .cmdStart hi) ∨
     (t.errCode = 2#4 ∧ ∃ hi, i = .cmdReserved0011 hi ∨ ∃ c, i = .cmdReserved01xx hi c ∨ i = .cmdReserved1xxx hi c) ∨
     (t.errCode = 3#4 ∧ s.fsm ≠ .idle ∧ ∃ d, i = .wrMsgBase d ∨ i = .wrMsgLenLo d ∨ i = .wrMsgLenHi d))

/-- While ERR = 1 an instruction either leaves ERR and ERR_CODE alone or is the STATUS write that clears both
(R252, R254). -/
def Obligations.ErrorIsStickyUntilCleared : Prop :=
  ∀ (i : Instr) (s t : State), exec i s = .next t → s.err = true →
    (t.err = true ∧ t.errCode = s.errCode) ∨
    (t.err = false ∧ t.errCode = 0#4 ∧ ∃ d : Word, i = .wrStatus d ∧ d.getLsbD 2 = true)

/-- DONE becomes 1 only by the FINISH of the last block, and 0 only by an accepted START or an ABORT (R34;
reset is no instruction). -/
def Obligations.OnlyTheseWriteDone : Prop :=
  ∀ (i : Instr) (s t : State), exec i s = .next t →
    (s.done = false → t.done = true →
      i = .seqFinish ∧ s.blk.toNat + 1 = nblk s.msgLen ∧ t.fsm = .idle) ∧
    (s.done = true → t.done = false → (∃ hi, i = .cmdStart hi ∧ s.fsm = .idle) ∨ ∃ hi, i = .cmdAbort hi)

/-- MSG_BASE, MSG_LEN and MEM_ADDR_W cannot change while a message is worked on, whatever the host does
(R53, R217 to R219, R288). -/
def Obligations.ConfigurationStableWhileBusy : Prop :=
  ∀ s t : State, step s = .next t → s.fsm ≠ .idle → t.fsm ≠ .idle →
    t.msgBase = s.msgBase ∧ t.msgLen = s.msgLen ∧ t.memAddrW = s.memAddrW

/-- The snapshot and the block buffer, unspecified at reset, are never observable: a step from IDLE or LOAD gives
the same state whatever they hold, up to themselves, and after a LOAD those too are the same (R39, R40). -/
def Obligations.UnspecifiedRegistersNeverMatter : Prop :=
  ∀ (s t : State) (x : Chain) (y : Vector Word 16), (s.fsm = .idle ∨ s.fsm = .load) → step s = .next t →
    ∃ x' y', step { s with snap := x, m := y } = .next { t with snap := x', m := y' } ∧
      (t.fsm = .idle ∨ t.fsm = .load ∨ (x' = t.snap ∧ y' = t.m))

/-- A START in the clock cycle of the last FINISH, that is the access and then the sequencer's step: it is
refused with error 1 and the message still ends with DONE = 1 (R239). -/
def Obligations.StartInTheCycleOfTheLastFinish : Prop :=
  ∀ (s : State) (hi : BitVec 28) (l : List Move),
    s.inputs = .access (howBits 1#1 0#4 (hi ++ 1#4)) :: .turn :: l → s.rst = false → s.fsm = .finish →
    s.blk.toNat + 1 = nblk s.msgLen → s.err = false →
    ∃ t u, step s = .next t ∧ step t = .next u ∧ t.fsm = .finish ∧ u.fsm = .idle ∧ u.done = true ∧
      u.err = true ∧ u.errCode = 1#4 ∧ u.acc = addChain s.snap s.acc ∧ u.inputs = l

/-! ### Invariants every step keeps -/

/-- The invariants hold at reset (among them that the field rdata is 0 while rst = 1: log 4, 10). -/
def Obligations.InvariantsHoldAtReset : Prop :=
  StatusLegal State.reset ∧ MemoryLegal State.reset ∧ BlockInMessage State.reset ∧ RoundsDone State.reset ∧
  FetchedInBlock State.reset ∧ ReadsInOrder State.reset ∧ PaddingInBlock State.reset ∧ HeldBytes State.reset ∧
  ChainInOrder State.reset ∧ ResetHeld State.reset

/-- STATUS stays legal: ERR = 0 gives ERR_CODE 0, codes 4 to 15 are never produced, BUSY = 1 gives DONE = 0
(R34, R251). -/
def Obligations.StepKeepsStatusLegal : Prop :=
  ∀ s t : State, StatusLegal s → step s = .next t → StatusLegal t

/-- The message memory keeps its canonical form and its address range, MEM_ADDR_W its admitted range
(R10, R50). The canonical form is the model's (log 6). -/
def Obligations.StepKeepsMemoryLegal : Prop :=
  ∀ s t : State, MemoryLegal s → step s = .next t → MemoryLegal t

/-- While BUSY the accumulator is where the compression of the snapshot has got to (R157, R175, R177). -/
def Obligations.StepKeepsRoundsDone : Prop :=
  ∀ s t : State, RoundsDone s → step s = .next t → RoundsDone t

/-- While BUSY, blk is a block of the message, the read in progress is one of its bytes, and the port has read
exactly the bytes of the blocks loaded and of the LOAD in progress, each once and in increasing order (R26, R53).
The trace `reads` is the model's own field (log 24), and so is the read in progress (log 8). -/
def Obligations.StepKeepsReadsInOrder : Prop :=
  ∀ s t : State, BlockInMessage s → FetchedInBlock s → ReadsInOrder s → step s = .next t →
    BlockInMessage t ∧ FetchedInBlock t ∧ ReadsInOrder t

/-- Every step, whatever accesses interleave, keeps the block and the chaining value. In ROUND and FINISH the padding
bytes stand in M where the padded stream puts them (R132, R153). Every message byte taken is one its address has
held since START (R60 item 4; which one is free, log 7). With no message byte overwritten since START, A..D in LOAD,
and the snapshot and M in ROUND and FINISH, are the chaining value and the block of the message the memory holds
(R152, R178), and the step that sets DONE leaves the digest of that message in A..D (R21, R34). While DONE stays 1,
A..D keep it (R60 item 3). -/
def Obligations.StepKeepsTheBlockAndTheChain : Prop :=
  ∀ s t : State, step s = .next t →
    (PaddingInBlock s → PaddingInBlock t) ∧
    (FetchedInBlock s → HeldBytes s → HeldBytes t) ∧
    (BlockInMessage s → HeldBytes s → RoundsDone s → ChainInOrder s →
      ChainInOrder t ∧
      (Unraced s → s.done = false → t.done = true →
        t.acc = digestOf s.msgLen fun j => s.mem.read ((s.msgBase.toNat + j) % 2 ^ s.memAddrW))) ∧
    (StatusLegal s → s.done = true → t.done = true → t.acc = s.acc)

/-- While rst = 1 the core stays in its reset state (R280, R281). That the field rdata stays 0 between reads is the
model's choice (log 4, 10). -/
def Obligations.StepKeepsResetHeld : Prop :=
  ∀ s t : State, ResetHeld s → step s = .next t → ResetHeld t

/-! ### Whole blocks and whole messages -/

/-- From LOAD, some of its bytes read already or none, and left alone, 66 sequencer steps compress the block:
A..D = compress(A..D, block blk), blk is counted, and fsm is LOAD for the next block or IDLE with DONE = 1 after the
last (R157, R177). That the sequencer goes on where no move is pending is the model's form of weak fairness
(log 5). -/
def Obligations.BlockTakesSixtySixSteps : Prop :=
  ∀ s : State, s.inputs = [] → s.rst = false → s.memAck = true → s.fsm = .load →
    ∃ t : State, Host.Core.run Sys2Proof.core 66 s = .next t ∧
      t.acc = compress s.acc (blockWords s.stream s.blk.toNat) ∧ t.blk = s.blk + 1#64 ∧
      t.fsm = (if s.blk.toNat + 1 = nblk s.msgLen then .idle else .load) ∧
      t.done = (if s.blk.toNat + 1 = nblk s.msgLen then true else s.done) ∧
      t.mem = s.mem ∧ t.msgBase = s.msgBase ∧ t.msgLen = s.msgLen ∧ t.memAddrW = s.memAddrW ∧
      t.raced = s.raced ∧ t.err = s.err ∧ t.errCode = s.errCode ∧ t.inputs = [] ∧ t.rst = false ∧
      t.memAck = true ∧ t.fetched = []

/-- A message left alone completes after exactly 66 * NBLK sequencer steps with DONE = 1 and A..D the digest of
its bytes in the message memory (R157, R178, R291). That the sequencer goes on where no move is pending is the
model's form of weak fairness (log 5). -/
def Obligations.MessageCompletesWithItsDigest : Prop :=
  ∀ s : State, s.inputs = [] → s.rst = false → s.memAck = true → s.fsm = .load → s.blk = 0#64 →
    s.acc = iv → s.fetched = [] → s.raced = [] → s.reads = [] →
    ∃ t : State, Host.Core.run Sys2Proof.core (66 * nblk s.msgLen) s = .next t ∧
      t.acc = digestOf s.msgLen (fun j => s.mem.read ((s.msgBase.toNat + j) % 2 ^ s.memAddrW)) ∧
      t.fsm = .idle ∧ t.done = true ∧ t.mem = s.mem ∧ t.err = s.err ∧
      t.blk = BitVec.ofNat 64 (nblk s.msgLen) ∧
      t.reads = (List.range s.msgLen.toNat).map fun j => (s.msgBase.toNat + j) % 2 ^ s.memAddrW
end

