-- ==== Sys2Proof/Laws/State.lean ====
section
/-! SUPPORT. One lemma per field per named update of the state, so that no later proof unfolds a record
update. -/

namespace Sys2Proof.Machine

variable (s : State)

/-! ### clearErr -/

@[simp] theorem clearErr_acc : (clearErr s).acc = s.acc := rfl
@[simp] theorem clearErr_snap : (clearErr s).snap = s.snap := rfl
@[simp] theorem clearErr_m : (clearErr s).m = s.m := rfl
@[simp] theorem clearErr_i : (clearErr s).i = s.i := rfl
@[simp] theorem clearErr_blk : (clearErr s).blk = s.blk := rfl
@[simp] theorem clearErr_fsm : (clearErr s).fsm = s.fsm := rfl
@[simp] theorem clearErr_done : (clearErr s).done = s.done := rfl
@[simp] theorem clearErr_err : (clearErr s).err = false := rfl
@[simp] theorem clearErr_errCode : (clearErr s).errCode = 0#4 := rfl
@[simp] theorem clearErr_msgBase : (clearErr s).msgBase = s.msgBase := rfl
@[simp] theorem clearErr_msgLen : (clearErr s).msgLen = s.msgLen := rfl
@[simp] theorem clearErr_rdata : (clearErr s).rdata = s.rdata := rfl
@[simp] theorem clearErr_rst : (clearErr s).rst = s.rst := rfl
@[simp] theorem clearErr_memAck : (clearErr s).memAck = s.memAck := rfl
@[simp] theorem clearErr_fetched : (clearErr s).fetched = s.fetched := rfl
@[simp] theorem clearErr_mem : (clearErr s).mem = s.mem := rfl
@[simp] theorem clearErr_memAddrW : (clearErr s).memAddrW = s.memAddrW := rfl
@[simp] theorem clearErr_inputs : (clearErr s).inputs = s.inputs := rfl
@[simp] theorem clearErr_raced : (clearErr s).raced = s.raced := rfl
@[simp] theorem clearErr_draws : (clearErr s).draws = s.draws := rfl
@[simp] theorem clearErr_reads : (clearErr s).reads = s.reads := rfl

/-! ### respond -/

@[simp] theorem respond_acc (v : Word) : (respond v s).acc = s.acc := rfl
@[simp] theorem respond_snap (v : Word) : (respond v s).snap = s.snap := rfl
@[simp] theorem respond_m (v : Word) : (respond v s).m = s.m := rfl
@[simp] theorem respond_i (v : Word) : (respond v s).i = s.i := rfl
@[simp] theorem respond_blk (v : Word) : (respond v s).blk = s.blk := rfl
@[simp] theorem respond_fsm (v : Word) : (respond v s).fsm = s.fsm := rfl
@[simp] theorem respond_done (v : Word) : (respond v s).done = s.done := rfl
@[simp] theorem respond_err (v : Word) : (respond v s).err = s.err := rfl
@[simp] theorem respond_errCode (v : Word) : (respond v s).errCode = s.errCode := rfl
@[simp] theorem respond_msgBase (v : Word) : (respond v s).msgBase = s.msgBase := rfl
@[simp] theorem respond_msgLen (v : Word) : (respond v s).msgLen = s.msgLen := rfl
@[simp] theorem respond_rdata (v : Word) : (respond v s).rdata = v := rfl
@[simp] theorem respond_rst (v : Word) : (respond v s).rst = s.rst := rfl
@[simp] theorem respond_memAck (v : Word) : (respond v s).memAck = s.memAck := rfl
@[simp] theorem respond_fetched (v : Word) : (respond v s).fetched = s.fetched := rfl
@[simp] theorem respond_mem (v : Word) : (respond v s).mem = s.mem := rfl
@[simp] theorem respond_memAddrW (v : Word) : (respond v s).memAddrW = s.memAddrW := rfl
@[simp] theorem respond_inputs (v : Word) : (respond v s).inputs = s.inputs := rfl
@[simp] theorem respond_raced (v : Word) : (respond v s).raced = s.raced := rfl
@[simp] theorem respond_draws (v : Word) : (respond v s).draws = s.draws := rfl
@[simp] theorem respond_reads (v : Word) : (respond v s).reads = s.reads := rfl

/-! ### beginMessage -/

@[simp] theorem beginMessage_acc : (beginMessage s).acc = iv := rfl
@[simp] theorem beginMessage_snap : (beginMessage s).snap = s.snap := rfl
@[simp] theorem beginMessage_m : (beginMessage s).m = s.m := rfl
@[simp] theorem beginMessage_i : (beginMessage s).i = s.i := rfl
@[simp] theorem beginMessage_blk : (beginMessage s).blk = 0#64 := rfl
@[simp] theorem beginMessage_fsm : (beginMessage s).fsm = .load := rfl
@[simp] theorem beginMessage_done : (beginMessage s).done = false := rfl
@[simp] theorem beginMessage_err : (beginMessage s).err = s.err := rfl
@[simp] theorem beginMessage_errCode : (beginMessage s).errCode = s.errCode := rfl
@[simp] theorem beginMessage_msgBase : (beginMessage s).msgBase = s.msgBase := rfl
@[simp] theorem beginMessage_msgLen : (beginMessage s).msgLen = s.msgLen := rfl
@[simp] theorem beginMessage_rdata : (beginMessage s).rdata = s.rdata := rfl
@[simp] theorem beginMessage_rst : (beginMessage s).rst = s.rst := rfl
@[simp] theorem beginMessage_memAck : (beginMessage s).memAck = s.memAck := rfl
@[simp] theorem beginMessage_fetched : (beginMessage s).fetched = [] := rfl
@[simp] theorem beginMessage_mem : (beginMessage s).mem = s.mem := rfl
@[simp] theorem beginMessage_memAddrW : (beginMessage s).memAddrW = s.memAddrW := rfl
@[simp] theorem beginMessage_inputs : (beginMessage s).inputs = s.inputs := rfl
@[simp] theorem beginMessage_raced : (beginMessage s).raced = [] := rfl
@[simp] theorem beginMessage_draws : (beginMessage s).draws = s.draws + 1 := rfl
@[simp] theorem beginMessage_reads : (beginMessage s).reads = [] := rfl

/-! ### abortMessage -/

@[simp] theorem abortMessage_acc : (abortMessage s).acc = iv := rfl
@[simp] theorem abortMessage_snap : (abortMessage s).snap = s.snap := rfl
@[simp] theorem abortMessage_m : (abortMessage s).m = s.m := rfl
@[simp] theorem abortMessage_i : (abortMessage s).i = 0#6 := rfl
@[simp] theorem abortMessage_blk : (abortMessage s).blk = 0#64 := rfl
@[simp] theorem abortMessage_fsm : (abortMessage s).fsm = .idle := rfl
@[simp] theorem abortMessage_done : (abortMessage s).done = false := rfl
@[simp] theorem abortMessage_err : (abortMessage s).err = s.err := rfl
@[simp] theorem abortMessage_errCode : (abortMessage s).errCode = s.errCode := rfl
@[simp] theorem abortMessage_msgBase : (abortMessage s).msgBase = s.msgBase := rfl
@[simp] theorem abortMessage_msgLen : (abortMessage s).msgLen = s.msgLen := rfl
@[simp] theorem abortMessage_rdata : (abortMessage s).rdata = s.rdata := rfl
@[simp] theorem abortMessage_rst : (abortMessage s).rst = s.rst := rfl
@[simp] theorem abortMessage_memAck : (abortMessage s).memAck = s.memAck := rfl
@[simp] theorem abortMessage_fetched : (abortMessage s).fetched = [] := rfl
@[simp] theorem abortMessage_mem : (abortMessage s).mem = s.mem := rfl
@[simp] theorem abortMessage_memAddrW : (abortMessage s).memAddrW = s.memAddrW := rfl
@[simp] theorem abortMessage_inputs : (abortMessage s).inputs = s.inputs := rfl
@[simp] theorem abortMessage_raced : (abortMessage s).raced = s.raced := rfl
@[simp] theorem abortMessage_draws : (abortMessage s).draws = s.draws := rfl
@[simp] theorem abortMessage_reads : (abortMessage s).reads = s.reads := rfl

/-! ### readByte -/

@[simp] theorem readByte_acc : (readByte s).acc = s.acc := rfl
@[simp] theorem readByte_snap : (readByte s).snap = s.snap := rfl
@[simp] theorem readByte_m : (readByte s).m = s.m := rfl
@[simp] theorem readByte_i : (readByte s).i = s.i := rfl
@[simp] theorem readByte_blk : (readByte s).blk = s.blk := rfl
@[simp] theorem readByte_fsm : (readByte s).fsm = s.fsm := rfl
@[simp] theorem readByte_done : (readByte s).done = s.done := rfl
@[simp] theorem readByte_err : (readByte s).err = s.err := rfl
@[simp] theorem readByte_errCode : (readByte s).errCode = s.errCode := rfl
@[simp] theorem readByte_msgBase : (readByte s).msgBase = s.msgBase := rfl
@[simp] theorem readByte_msgLen : (readByte s).msgLen = s.msgLen := rfl
@[simp] theorem readByte_rdata : (readByte s).rdata = s.rdata := rfl
@[simp] theorem readByte_rst : (readByte s).rst = s.rst := rfl
@[simp] theorem readByte_memAck : (readByte s).memAck = s.memAck := rfl
@[simp] theorem readByte_fetched : (readByte s).fetched = s.fetched ++ [s.msgByte s.portPos] := rfl
@[simp] theorem readByte_mem : (readByte s).mem = s.mem := rfl
@[simp] theorem readByte_memAddrW : (readByte s).memAddrW = s.memAddrW := rfl
@[simp] theorem readByte_inputs : (readByte s).inputs = s.inputs := rfl
@[simp] theorem readByte_raced : (readByte s).raced = s.raced := rfl
@[simp] theorem readByte_draws : (readByte s).draws = s.draws := rfl
@[simp] theorem readByte_reads : (readByte s).reads = s.reads ++ [s.memAddr] := rfl

/-! ### takeBlock -/

@[simp] theorem takeBlock_acc : (takeBlock s).acc = s.acc := rfl
@[simp] theorem takeBlock_snap : (takeBlock s).snap = s.acc := rfl
@[simp] theorem takeBlock_m : (takeBlock s).m = blockWords s.stream s.blk.toNat := rfl
@[simp] theorem takeBlock_i : (takeBlock s).i = 0#6 := rfl
@[simp] theorem takeBlock_blk : (takeBlock s).blk = s.blk := rfl
@[simp] theorem takeBlock_fsm : (takeBlock s).fsm = .round := rfl
@[simp] theorem takeBlock_done : (takeBlock s).done = s.done := rfl
@[simp] theorem takeBlock_err : (takeBlock s).err = s.err := rfl
@[simp] theorem takeBlock_errCode : (takeBlock s).errCode = s.errCode := rfl
@[simp] theorem takeBlock_msgBase : (takeBlock s).msgBase = s.msgBase := rfl
@[simp] theorem takeBlock_msgLen : (takeBlock s).msgLen = s.msgLen := rfl
@[simp] theorem takeBlock_rdata : (takeBlock s).rdata = s.rdata := rfl
@[simp] theorem takeBlock_rst : (takeBlock s).rst = s.rst := rfl
@[simp] theorem takeBlock_memAck : (takeBlock s).memAck = s.memAck := rfl
@[simp] theorem takeBlock_fetched : (takeBlock s).fetched = [] := rfl
@[simp] theorem takeBlock_mem : (takeBlock s).mem = s.mem := rfl
@[simp] theorem takeBlock_memAddrW : (takeBlock s).memAddrW = s.memAddrW := rfl
@[simp] theorem takeBlock_inputs : (takeBlock s).inputs = s.inputs := rfl
@[simp] theorem takeBlock_raced : (takeBlock s).raced = s.raced := rfl
@[simp] theorem takeBlock_draws : (takeBlock s).draws = s.draws := rfl
@[simp] theorem takeBlock_reads : (takeBlock s).reads = s.reads := rfl

/-! ### finishBlock -/

@[simp] theorem finishBlock_acc : (finishBlock s).acc = addChain s.snap s.acc := rfl
@[simp] theorem finishBlock_snap : (finishBlock s).snap = s.snap := rfl
@[simp] theorem finishBlock_m : (finishBlock s).m = s.m := rfl
@[simp] theorem finishBlock_i : (finishBlock s).i = s.i := rfl
@[simp] theorem finishBlock_blk : (finishBlock s).blk = s.blk + 1#64 := rfl
@[simp] theorem finishBlock_fsm : (finishBlock s).fsm = (if s.lastBlock then .idle else .load) := rfl
@[simp] theorem finishBlock_done : (finishBlock s).done = (if s.lastBlock then true else s.done) := rfl
@[simp] theorem finishBlock_err : (finishBlock s).err = s.err := rfl
@[simp] theorem finishBlock_errCode : (finishBlock s).errCode = s.errCode := rfl
@[simp] theorem finishBlock_msgBase : (finishBlock s).msgBase = s.msgBase := rfl
@[simp] theorem finishBlock_msgLen : (finishBlock s).msgLen = s.msgLen := rfl
@[simp] theorem finishBlock_rdata : (finishBlock s).rdata = s.rdata := rfl
@[simp] theorem finishBlock_rst : (finishBlock s).rst = s.rst := rfl
@[simp] theorem finishBlock_memAck : (finishBlock s).memAck = s.memAck := rfl
@[simp] theorem finishBlock_fetched : (finishBlock s).fetched = s.fetched := rfl
@[simp] theorem finishBlock_mem : (finishBlock s).mem = s.mem := rfl
@[simp] theorem finishBlock_memAddrW : (finishBlock s).memAddrW = s.memAddrW := rfl
@[simp] theorem finishBlock_inputs : (finishBlock s).inputs = s.inputs := rfl
@[simp] theorem finishBlock_raced : (finishBlock s).raced = s.raced := rfl
@[simp] theorem finishBlock_draws : (finishBlock s).draws = s.draws := rfl
@[simp] theorem finishBlock_reads : (finishBlock s).reads = s.reads := rfl

/-! ### assertReset -/

@[simp] theorem assertReset_acc : (assertReset s).acc = State.reset.acc := rfl
@[simp] theorem assertReset_snap : (assertReset s).snap = State.reset.snap := rfl
@[simp] theorem assertReset_m : (assertReset s).m = State.reset.m := rfl
@[simp] theorem assertReset_i : (assertReset s).i = State.reset.i := rfl
@[simp] theorem assertReset_blk : (assertReset s).blk = State.reset.blk := rfl
@[simp] theorem assertReset_fsm : (assertReset s).fsm = State.reset.fsm := rfl
@[simp] theorem assertReset_done : (assertReset s).done = State.reset.done := rfl
@[simp] theorem assertReset_err : (assertReset s).err = State.reset.err := rfl
@[simp] theorem assertReset_errCode : (assertReset s).errCode = State.reset.errCode := rfl
@[simp] theorem assertReset_msgBase : (assertReset s).msgBase = State.reset.msgBase := rfl
@[simp] theorem assertReset_msgLen : (assertReset s).msgLen = State.reset.msgLen := rfl
@[simp] theorem assertReset_rdata : (assertReset s).rdata = State.reset.rdata := rfl
@[simp] theorem assertReset_rst : (assertReset s).rst = true := rfl
@[simp] theorem assertReset_memAck : (assertReset s).memAck = s.memAck := rfl
@[simp] theorem assertReset_fetched : (assertReset s).fetched = State.reset.fetched := rfl
@[simp] theorem assertReset_mem : (assertReset s).mem = s.mem := rfl
@[simp] theorem assertReset_memAddrW : (assertReset s).memAddrW = s.memAddrW := rfl
@[simp] theorem assertReset_inputs : (assertReset s).inputs = s.inputs := rfl
@[simp] theorem assertReset_raced : (assertReset s).raced = State.reset.raced := rfl
@[simp] theorem assertReset_draws : (assertReset s).draws = s.draws := rfl
@[simp] theorem assertReset_reads : (assertReset s).reads = State.reset.reads := rfl

/-! ### raiseErr -/

@[simp] theorem raiseErr_err (code : BitVec 4) : (raiseErr code s).err = true := by
  unfold raiseErr; split <;> simp_all
@[simp] theorem raiseErr_errCode (code : BitVec 4) :
    (raiseErr code s).errCode = if s.err then s.errCode else code := by
  unfold raiseErr; split <;> rfl
@[simp] theorem raiseErr_acc (code : BitVec 4) : (raiseErr code s).acc = s.acc := by
  unfold raiseErr; split <;> rfl
@[simp] theorem raiseErr_snap (code : BitVec 4) : (raiseErr code s).snap = s.snap := by
  unfold raiseErr; split <;> rfl
@[simp] theorem raiseErr_m (code : BitVec 4) : (raiseErr code s).m = s.m := by
  unfold raiseErr; split <;> rfl
@[simp] theorem raiseErr_i (code : BitVec 4) : (raiseErr code s).i = s.i := by
  unfold raiseErr; split <;> rfl
@[simp] theorem raiseErr_blk (code : BitVec 4) : (raiseErr code s).blk = s.blk := by
  unfold raiseErr; split <;> rfl
@[simp] theorem raiseErr_fsm (code : BitVec 4) : (raiseErr code s).fsm = s.fsm := by
  unfold raiseErr; split <;> rfl
@[simp] theorem raiseErr_done (code : BitVec 4) : (raiseErr code s).done = s.done := by
  unfold raiseErr; split <;> rfl
@[simp] theorem raiseErr_msgBase (code : BitVec 4) : (raiseErr code s).msgBase = s.msgBase := by
  unfold raiseErr; split <;> rfl
@[simp] theorem raiseErr_msgLen (code : BitVec 4) : (raiseErr code s).msgLen = s.msgLen := by
  unfold raiseErr; split <;> rfl
@[simp] theorem raiseErr_rdata (code : BitVec 4) : (raiseErr code s).rdata = s.rdata := by
  unfold raiseErr; split <;> rfl
@[simp] theorem raiseErr_rst (code : BitVec 4) : (raiseErr code s).rst = s.rst := by
  unfold raiseErr; split <;> rfl
@[simp] theorem raiseErr_memAck (code : BitVec 4) : (raiseErr code s).memAck = s.memAck := by
  unfold raiseErr; split <;> rfl
@[simp] theorem raiseErr_fetched (code : BitVec 4) : (raiseErr code s).fetched = s.fetched := by
  unfold raiseErr; split <;> rfl
@[simp] theorem raiseErr_mem (code : BitVec 4) : (raiseErr code s).mem = s.mem := by
  unfold raiseErr; split <;> rfl
@[simp] theorem raiseErr_memAddrW (code : BitVec 4) : (raiseErr code s).memAddrW = s.memAddrW := by
  unfold raiseErr; split <;> rfl
@[simp] theorem raiseErr_inputs (code : BitVec 4) : (raiseErr code s).inputs = s.inputs := by
  unfold raiseErr; split <;> rfl
@[simp] theorem raiseErr_raced (code : BitVec 4) : (raiseErr code s).raced = s.raced := by
  unfold raiseErr; split <;> rfl
@[simp] theorem raiseErr_draws (code : BitVec 4) : (raiseErr code s).draws = s.draws := by
  unfold raiseErr; split <;> rfl
@[simp] theorem raiseErr_reads (code : BitVec 4) : (raiseErr code s).reads = s.reads := by
  unfold raiseErr; split <;> rfl

/-! ### nextRound and roundStep -/

@[simp] theorem nextRound_i : (nextRound s).i = if s.i = 63#6 then s.i else s.i + 1#6 := by
  unfold nextRound; split <;> rfl
@[simp] theorem nextRound_fsm : (nextRound s).fsm = if s.i = 63#6 then .finish else s.fsm := by
  unfold nextRound; split <;> rfl
@[simp] theorem nextRound_acc : (nextRound s).acc = s.acc := by
  unfold nextRound; split <;> rfl
@[simp] theorem nextRound_snap : (nextRound s).snap = s.snap := by
  unfold nextRound; split <;> rfl
@[simp] theorem nextRound_m : (nextRound s).m = s.m := by
  unfold nextRound; split <;> rfl
@[simp] theorem nextRound_blk : (nextRound s).blk = s.blk := by
  unfold nextRound; split <;> rfl
@[simp] theorem nextRound_done : (nextRound s).done = s.done := by
  unfold nextRound; split <;> rfl
@[simp] theorem nextRound_err : (nextRound s).err = s.err := by
  unfold nextRound; split <;> rfl
@[simp] theorem nextRound_errCode : (nextRound s).errCode = s.errCode := by
  unfold nextRound; split <;> rfl
@[simp] theorem nextRound_msgBase : (nextRound s).msgBase = s.msgBase := by
  unfold nextRound; split <;> rfl
@[simp] theorem nextRound_msgLen : (nextRound s).msgLen = s.msgLen := by
  unfold nextRound; split <;> rfl
@[simp] theorem nextRound_rdata : (nextRound s).rdata = s.rdata := by
  unfold nextRound; split <;> rfl
@[simp] theorem nextRound_rst : (nextRound s).rst = s.rst := by
  unfold nextRound; split <;> rfl
@[simp] theorem nextRound_memAck : (nextRound s).memAck = s.memAck := by
  unfold nextRound; split <;> rfl
@[simp] theorem nextRound_fetched : (nextRound s).fetched = s.fetched := by
  unfold nextRound; split <;> rfl
@[simp] theorem nextRound_mem : (nextRound s).mem = s.mem := by
  unfold nextRound; split <;> rfl
@[simp] theorem nextRound_memAddrW : (nextRound s).memAddrW = s.memAddrW := by
  unfold nextRound; split <;> rfl
@[simp] theorem nextRound_inputs : (nextRound s).inputs = s.inputs := by
  unfold nextRound; split <;> rfl
@[simp] theorem nextRound_raced : (nextRound s).raced = s.raced := by
  unfold nextRound; split <;> rfl
@[simp] theorem nextRound_draws : (nextRound s).draws = s.draws := by
  unfold nextRound; split <;> rfl
@[simp] theorem nextRound_reads : (nextRound s).reads = s.reads := by
  unfold nextRound; split <;> rfl

variable (fn : Word → Word → Word → Word) (g : BitVec 4)

@[simp] theorem roundStep_acc : (roundStep fn g s).acc =
    roundChain fn (atPos s.m g) (kRom s.i) (rRom s.i) s.acc := by
  unfold roundStep; simp only [nextRound_acc]
@[simp] theorem roundStep_i : (roundStep fn g s).i = if s.i = 63#6 then s.i else s.i + 1#6 := by
  unfold roundStep; simp only [nextRound_i]
@[simp] theorem roundStep_fsm : (roundStep fn g s).fsm = if s.i = 63#6 then .finish else s.fsm := by
  unfold roundStep; simp only [nextRound_fsm]
@[simp] theorem roundStep_snap : (roundStep fn g s).snap = s.snap := by
  unfold roundStep; simp only [nextRound_snap]
@[simp] theorem roundStep_m : (roundStep fn g s).m = s.m := by
  unfold roundStep; simp only [nextRound_m]
@[simp] theorem roundStep_blk : (roundStep fn g s).blk = s.blk := by
  unfold roundStep; simp only [nextRound_blk]
@[simp] theorem roundStep_done : (roundStep fn g s).done = s.done := by
  unfold roundStep; simp only [nextRound_done]
@[simp] theorem roundStep_err : (roundStep fn g s).err = s.err := by
  unfold roundStep; simp only [nextRound_err]
@[simp] theorem roundStep_errCode : (roundStep fn g s).errCode = s.errCode := by
  unfold roundStep; simp only [nextRound_errCode]
@[simp] theorem roundStep_msgBase : (roundStep fn g s).msgBase = s.msgBase := by
  unfold roundStep; simp only [nextRound_msgBase]
@[simp] theorem roundStep_msgLen : (roundStep fn g s).msgLen = s.msgLen := by
  unfold roundStep; simp only [nextRound_msgLen]
@[simp] theorem roundStep_rdata : (roundStep fn g s).rdata = s.rdata := by
  unfold roundStep; simp only [nextRound_rdata]
@[simp] theorem roundStep_rst : (roundStep fn g s).rst = s.rst := by
  unfold roundStep; simp only [nextRound_rst]
@[simp] theorem roundStep_memAck : (roundStep fn g s).memAck = s.memAck := by
  unfold roundStep; simp only [nextRound_memAck]
@[simp] theorem roundStep_fetched : (roundStep fn g s).fetched = s.fetched := by
  unfold roundStep; simp only [nextRound_fetched]
@[simp] theorem roundStep_mem : (roundStep fn g s).mem = s.mem := by
  unfold roundStep; simp only [nextRound_mem]
@[simp] theorem roundStep_memAddrW : (roundStep fn g s).memAddrW = s.memAddrW := by
  unfold roundStep; simp only [nextRound_memAddrW]
@[simp] theorem roundStep_inputs : (roundStep fn g s).inputs = s.inputs := by
  unfold roundStep; simp only [nextRound_inputs]
@[simp] theorem roundStep_raced : (roundStep fn g s).raced = s.raced := by
  unfold roundStep; simp only [nextRound_raced]
@[simp] theorem roundStep_draws : (roundStep fn g s).draws = s.draws := by
  unfold roundStep; simp only [nextRound_draws]
@[simp] theorem roundStep_reads : (roundStep fn g s).reads = s.reads := by
  unfold roundStep; simp only [nextRound_reads]

/-! ### What a view reads after an update that leaves its fields alone -/

@[simp] theorem clearErr_busy : (clearErr s).busy = s.busy := by
  simp only [State.busy, clearErr_fsm]
@[simp] theorem clearErr_msgAddr (j : Nat) : (clearErr s).msgAddr j = s.msgAddr j := by
  simp [State.msgAddr]
@[simp] theorem raiseErr_busy (code : BitVec 4) : (raiseErr code s).busy = s.busy := by
  simp only [State.busy, raiseErr_fsm]
@[simp] theorem raiseErr_msgAddr (code : BitVec 4) (j : Nat) : (raiseErr code s).msgAddr j = s.msgAddr j := by
  simp [State.msgAddr]
@[simp] theorem respond_busy (v : Word) : (respond v s).busy = s.busy := by
  simp only [State.busy, respond_fsm]
@[simp] theorem respond_msgAddr (v : Word) (j : Nat) : (respond v s).msgAddr j = s.msgAddr j := by
  simp [State.msgAddr]
@[simp] theorem readByte_busy : (readByte s).busy = s.busy := rfl
@[simp] theorem readByte_msgAddr (j : Nat) : (readByte s).msgAddr j = s.msgAddr j := rfl
@[simp] theorem readByte_msgByte (j : Nat) : (readByte s).msgByte j = s.msgByte j := rfl

end Sys2Proof.Machine
end

