-- ==== Sys2Proof/Laws/Ops.lean ====
section
/-! SUPPORT. One lemma per shared operation that says everything it can do: the message memory keeps its
canonical form and obeys the read and write laws, and the operations of Machine/Ops.lean. -/

namespace Sys2Proof.Machine

/-! ### The message memory -/

@[simp] theorem Memory.read_nil (a : Nat) : Memory.read [] a = unlistedByte := rfl

theorem Memory.above_iff (x : Nat) (m : Memory) : Memory.above x m = true ↔ ∀ c ∈ m, x < c.1 := by
  simp [Memory.above]

theorem Memory.wf_cons (x : Nat) (v : Byte) (rest : Memory) :
    Memory.wf ((x, v) :: rest) = true ↔
      v ≠ unlistedByte ∧ (∀ c ∈ rest, x < c.1) ∧ Memory.wf rest = true := by
  simp [Memory.wf, Memory.above_iff, and_assoc]

/-- A memory with nothing at an address reads the unlisted byte there. -/
theorem Memory.read_of_not_listed (m : Memory) (a : Nat) (h : ∀ c ∈ m, c.1 ≠ a) :
    Memory.read m a = unlistedByte := by
  induction m with
  | nil => rfl
  | cons c rest ih =>
    obtain ⟨x, v⟩ := c
    have hx : x ≠ a := h (x, v) (by simp)
    simpa [Memory.read, hx] using ih fun c hc => h c (by simp [hc])

theorem Memory.read_put_self (a : Nat) (b : Byte) (rest : Memory) (h : ∀ c ∈ rest, c.1 ≠ a) :
    Memory.read (Memory.put a b rest) a = b := by
  unfold Memory.put
  split
  · rename_i hb
    rw [Memory.read_of_not_listed rest a h, hb]
  · simp [Memory.read]

theorem Memory.read_put_other (a x : Nat) (b : Byte) (rest : Memory) (h : x ≠ a) :
    Memory.read (Memory.put a b rest) x = Memory.read rest x := by
  unfold Memory.put
  split
  · rfl
  · simp [Memory.read, Ne.symm h]

theorem Memory.mem_put {a : Nat} {b : Byte} {rest : Memory} {c : Host.Cell}
    (h : c ∈ Memory.put a b rest) : c = (a, b) ∨ c ∈ rest := by
  unfold Memory.put at h
  split at h
  · exact .inr h
  · simpa using h

/-- Every cell after a write is the cell written or one that was there. -/
theorem Memory.mem_write {m : Memory} {a : Nat} {b : Byte} {c : Host.Cell}
    (h : c ∈ Memory.write m a b) : c = (a, b) ∨ c ∈ m := by
  induction m with
  | nil => exact Memory.mem_put h
  | cons d rest ih =>
    obtain ⟨x, v⟩ := d
    simp only [Memory.write] at h
    split at h
    · exact Memory.mem_put h
    · split at h
      · rcases Memory.mem_put h with h | h
        · exact .inl h
        · exact .inr (by simp [h])
      · rcases List.mem_cons.1 h with h | h
        · exact .inr (by simp [h])
        · rcases ih h with h | h
          · exact .inl h
          · exact .inr (by simp [h])

theorem Memory.wf_put {a : Nat} {b : Byte} {rest : Memory} (hw : rest.wf = true)
    (ha : ∀ c ∈ rest, a < c.1) : (Memory.put a b rest).wf = true := by
  unfold Memory.put
  split
  · exact hw
  · rename_i hb
    exact (Memory.wf_cons a b rest).2 ⟨hb, ha, hw⟩

/-- A write keeps the canonical form. -/
theorem Memory.write_wf {m : Memory} (a : Nat) (b : Byte) (h : m.wf = true) :
    (m.write a b).wf = true := by
  induction m with
  | nil => exact Memory.wf_put h (by simp)
  | cons d rest ih =>
    obtain ⟨x, v⟩ := d
    obtain ⟨hv, hx, hr⟩ := (Memory.wf_cons x v rest).1 h
    simp only [Memory.write]
    split
    · rename_i hlt
      refine Memory.wf_put h fun c hc => ?_
      rcases List.mem_cons.1 hc with rfl | hc
      · exact hlt
      · exact lt_trans hlt (hx c hc)
    · rename_i hnlt
      split
      · rename_i heq
        exact Memory.wf_put hr fun c hc => heq ▸ hx c hc
      · rename_i hne
        refine (Memory.wf_cons x v _).2 ⟨hv, fun c hc => ?_, ih hr⟩
        rcases Memory.mem_write hc with rfl | hc
        · show x < a
          omega
        · exact hx c hc

/-- A read after a write to the same address gives the byte written. -/
theorem Memory.read_write_self {m : Memory} (a : Nat) (b : Byte) (h : m.wf = true) :
    (m.write a b).read a = b := by
  induction m with
  | nil => exact Memory.read_put_self a b [] (by simp)
  | cons d rest ih =>
    obtain ⟨x, v⟩ := d
    obtain ⟨hv, hx, hr⟩ := (Memory.wf_cons x v rest).1 h
    simp only [Memory.write]
    split
    · rename_i hlt
      refine Memory.read_put_self a b _ fun c hc => ?_
      rcases List.mem_cons.1 hc with rfl | hc
      · exact (Nat.ne_of_lt hlt).symm
      · have := hx c hc; omega
    · split
      · rename_i heq
        exact Memory.read_put_self a b rest fun c hc => by have := hx c hc; omega
      · rename_i hne
        simpa [Memory.read, Ne.symm hne] using ih hr

/-- A write leaves every other address as it was. -/
theorem Memory.read_write_other (m : Memory) {a x : Nat} (b : Byte) (h : x ≠ a) :
    (m.write a b).read x = m.read x := by
  induction m with
  | nil => exact Memory.read_put_other a x b [] h
  | cons d rest ih =>
    obtain ⟨y, v⟩ := d
    simp only [Memory.write]
    split
    · exact Memory.read_put_other a x b _ h
    · split
      · rename_i heq
        rw [Memory.read_put_other a x b rest h]
        simp [Memory.read, ← heq, Ne.symm h]
      · simp [Memory.read, ih]

/-! ### Errors, configuration writes, enabling -/

theorem raiseErr_of_err (code : BitVec 4) {s : State} (h : s.err = true) : raiseErr code s = s := by
  simp [raiseErr, h]

theorem raiseErr_of_clear (code : BitVec 4) {s : State} (h : s.err = false) :
    raiseErr code s = { s with err := true, errCode := code } := by
  simp [raiseErr, h]

theorem writeConfig_busy (w : State) {s : State} (h : s.busy = true) :
    writeConfig w s = raiseErr errCfgWriteWhileBusy s := by
  simp [writeConfig, h]

theorem writeConfig_idle (w : State) {s : State} (h : s.busy = false) : writeConfig w s = w := by
  simp [writeConfig, h]

theorem whenEnabled_next {e : Bool} {mn : String} {t u : State}
    (h : whenEnabled e mn t = .next u) : e = true ∧ u = t := by
  unfold whenEnabled at h
  split at h
  · rename_i he
    exact ⟨he, by cases h; rfl⟩
  · cases h

@[simp] theorem whenEnabled_true (mn : String) (t : State) : whenEnabled true mn t = .next t := rfl

@[simp] theorem whenEnabled_false (mn : String) (t : State) :
    whenEnabled false mn t = .refused (.notEnabled mn) := rfl

theorem busy_iff (s : State) : s.busy = true ↔ s.fsm ≠ .idle := by
  cases h : s.fsm <;> simp [State.busy, fsmActive, h]

theorem not_busy_iff (s : State) : s.busy = false ↔ s.fsm = .idle := by
  cases h : s.fsm <;> simp [State.busy, fsmActive, h]

/-- Everything a host write to message memory can do. -/
theorem hostMemWrite_next {a : Nat} {b : Byte} {s t : State} (h : hostMemWrite a b s = .next t) :
    a < 2 ^ s.memAddrW ∧
      t = { s with
        mem := s.mem.write a b,
        raced := if s.busy then s.raced ++ [(a, s.mem.read a)] else s.raced } := by
  unfold hostMemWrite at h
  split at h
  · rename_i ha
    exact ⟨ha, by cases h; rfl⟩
  · cases h

/-! ### The race draw -/

@[simp] theorem drawByte_nil (n : Nat) (now : Byte) : drawByte n [] now = now := rfl

/-- A drawn byte is the current one or one of the earlier ones. -/
theorem drawByte_mem (n : Nat) (old : List Byte) (now : Byte) :
    drawByte n old now = now ∨ drawByte n old now ∈ old := by
  cases old with
  | nil => exact .inl rfl
  | cons v vs =>
    have h : drawByte n (v :: vs) now ∈ v :: vs ++ [now] := List.getElem_mem _
    rcases List.mem_append.1 h with h | h
    · exact .inr h
    · exact .inl (by simpa using h)

/-- A message byte read at the port is the one its address holds or one it has held since START. -/
theorem msgByte_mem (s : State) (j : Nat) :
    s.msgByte j = s.mem.read (s.msgAddr j) ∨ (s.msgAddr j, s.msgByte j) ∈ s.raced := by
  rcases drawByte_mem (Config.raceDraw s.draws j) (s.held (s.msgAddr j)) (s.mem.read (s.msgAddr j)) with h | h
  · exact .inl h
  · have hheld : ∀ v, v ∈ s.held (s.msgAddr j) → (s.msgAddr j, v) ∈ s.raced := by
      intro v hv
      simpa [State.held] using hv
    exact .inr (hheld _ h)

end Sys2Proof.Machine
end

