-- ==== Sys2Proof/Laws/Port.lean ====
section
/-! SUPPORT. The memory port: what reading n bytes does, and a LOAD in closed form with one lemma per field. -/

namespace Sys2Proof.Machine

variable (s : State)

@[simp] theorem readByte_portPos : (readByte s).portPos = s.portPos + 1 := by
  simp [State.portPos, Nat.add_assoc]

/-- Reading n bytes: the next n positions, in increasing order, each once. -/
theorem readBytes_eq (n : Nat) (s : State) :
    readBytes n s = { s with
      fetched := s.fetched ++ (List.range' s.portPos n).map s.msgByte
      reads := s.reads ++ (List.range' s.portPos n).map s.msgAddr } := by
  induction n generalizing s with
  | zero => simp [readBytes]
  | succ n ih =>
    have hb : (readByte s).msgByte = s.msgByte := rfl
    have ha : (readByte s).msgAddr = s.msgAddr := rfl
    rw [readBytes, ih, readByte_portPos, hb, ha, List.range'_succ]
    simp [readByte, State.memAddr]

/-- How many message bytes of the block are still to be read. -/
def State.portLeft (s : State) : Nat := blockBytes s.msgLen s.blk.toNat - s.fetched.length

theorem portWants_iff : s.portWants = true ↔ 0 < s.portLeft := by
  simp [State.portWants, State.portLeft]

theorem portWants_false_iff : s.portWants = false ↔ blockBytes s.msgLen s.blk.toNat ≤ s.fetched.length := by
  simp [State.portWants]

/-- A LOAD does not wait where the memory answers or nothing is left to read. -/
theorem loadWaits_false_iff :
    s.loadWaits = false ↔ s.memAck = true ∨ blockBytes s.msgLen s.blk.toNat ≤ s.fetched.length := by
  rw [← portWants_false_iff]
  cases h : s.memAck <;> simp [State.loadWaits, h]

/-- A message byte of the block, as the LOAD takes it once it has read all of them. -/
theorem loadByte_readBytes (n j : Nat) (hj : 64 * s.blk.toNat ≤ j) :
    (readBytes n s).loadByte j = s.loadByte j := by
  induction n generalizing s with
  | zero => rfl
  | succ n ih =>
    rw [readBytes, ih (readByte s) hj]
    simp only [State.loadByte, readByte_blk, readByte_fetched, readByte_msgByte]
    rcases Nat.lt_trichotomy (j - 64 * s.blk.toNat) s.fetched.length with h | h | h
    · rw [List.getElem?_append_left h]
    · rw [h, List.getElem?_append_right (Nat.le_refl _), Nat.sub_self, List.getElem?_eq_none (Nat.le_refl _)]
      simp [State.portPos, ← h, Nat.add_sub_cancel' hj]
    · rw [List.getElem?_eq_none (by simp; omega), List.getElem?_eq_none (by omega)]

/-- Two byte streams that agree on a block give the same words of it. -/
theorem blockWords_congr {p q : Nat → Byte} {b : Nat} (h : ∀ j, 64 * b ≤ j → j < 64 * b + 64 → p j = q j) :
    blockWords p b = blockWords q b := by
  have hw : ∀ k, k < 16 → blockWord p b k = blockWord q b k := by
    intro k hk
    simp only [blockWord]
    rw [h _ (by omega) (by omega), h _ (by omega) (by omega), h _ (by omega) (by omega), h _ (by omega) (by omega)]
  simp only [blockWords, hw, Nat.reduceLT]

/-- A LOAD: the bytes still to be read are read, and the block is taken. -/
theorem loadBlock_eq : loadBlock s = { s with
    m := blockWords s.stream s.blk.toNat
    snap := s.acc
    i := 0#6
    fsm := .round
    fetched := []
    reads := s.reads ++ (List.range' s.portPos s.portLeft).map s.msgAddr } := by
  have hm : blockWords (readBytes s.portLeft s).stream s.blk.toNat = blockWords s.stream s.blk.toNat := by
    refine blockWords_congr fun j hj _ => ?_
    simp only [State.stream, padded, loadByte_readBytes s _ j hj]
    rw [readBytes_eq]
  unfold loadBlock takeBlock
  change { readBytes s.portLeft s with
    m := blockWords (readBytes s.portLeft s).stream (readBytes s.portLeft s).blk.toNat
    snap := (readBytes s.portLeft s).acc, i := 0#6, fsm := .round, fetched := [] } = _
  have hb : (readBytes s.portLeft s).blk = s.blk := by rw [readBytes_eq]
  rw [hb, hm, readBytes_eq]

/-- A LOAD that has read one more byte goes on to the same end. -/
theorem loadBlock_readByte (h : s.portWants = true) : loadBlock (readByte s) = loadBlock s := by
  have hl := (portWants_iff s).1 h
  have hn : s.portLeft = (readByte s).portLeft + 1 := by
    simp only [State.portLeft, readByte_msgLen, readByte_blk, readByte_fetched, List.length_append,
      List.length_singleton] at hl ⊢
    omega
  change takeBlock (readBytes (readByte s).portLeft (readByte s)) = takeBlock (readBytes s.portLeft s)
  rw [hn, readBytes]

@[simp] theorem loadBlock_acc : (loadBlock s).acc = s.acc := by rw [loadBlock_eq]
@[simp] theorem loadBlock_snap : (loadBlock s).snap = s.acc := by rw [loadBlock_eq]
@[simp] theorem loadBlock_m : (loadBlock s).m = blockWords s.stream s.blk.toNat := by rw [loadBlock_eq]
@[simp] theorem loadBlock_i : (loadBlock s).i = 0#6 := by rw [loadBlock_eq]
@[simp] theorem loadBlock_blk : (loadBlock s).blk = s.blk := by rw [loadBlock_eq]
@[simp] theorem loadBlock_fsm : (loadBlock s).fsm = .round := by rw [loadBlock_eq]
@[simp] theorem loadBlock_done : (loadBlock s).done = s.done := by rw [loadBlock_eq]
@[simp] theorem loadBlock_err : (loadBlock s).err = s.err := by rw [loadBlock_eq]
@[simp] theorem loadBlock_errCode : (loadBlock s).errCode = s.errCode := by rw [loadBlock_eq]
@[simp] theorem loadBlock_msgBase : (loadBlock s).msgBase = s.msgBase := by rw [loadBlock_eq]
@[simp] theorem loadBlock_msgLen : (loadBlock s).msgLen = s.msgLen := by rw [loadBlock_eq]
@[simp] theorem loadBlock_rdata : (loadBlock s).rdata = s.rdata := by rw [loadBlock_eq]
@[simp] theorem loadBlock_rst : (loadBlock s).rst = s.rst := by rw [loadBlock_eq]
@[simp] theorem loadBlock_memAck : (loadBlock s).memAck = s.memAck := by rw [loadBlock_eq]
@[simp] theorem loadBlock_fetched : (loadBlock s).fetched = [] := by rw [loadBlock_eq]
@[simp] theorem loadBlock_mem : (loadBlock s).mem = s.mem := by rw [loadBlock_eq]
@[simp] theorem loadBlock_memAddrW : (loadBlock s).memAddrW = s.memAddrW := by rw [loadBlock_eq]
@[simp] theorem loadBlock_inputs : (loadBlock s).inputs = s.inputs := by rw [loadBlock_eq]
@[simp] theorem loadBlock_raced : (loadBlock s).raced = s.raced := by rw [loadBlock_eq]
@[simp] theorem loadBlock_draws : (loadBlock s).draws = s.draws := by rw [loadBlock_eq]
@[simp] theorem loadBlock_reads : (loadBlock s).reads = 
    s.reads ++ (List.range' s.portPos s.portLeft).map s.msgAddr := by rw [loadBlock_eq]

end Sys2Proof.Machine
end

