-- ==== Sys2Proof/Laws/Compress.lean ====
section
/-! SUPPORT. The small lemmas of the compression, the padded stream and the block buffer. -/

namespace Sys2Proof.Machine

@[simp] theorem roundsOn_zero (x : Vector Word 16) (h : Chain) : roundsOn x h 0 = h := rfl

theorem roundsOn_succ (x : Vector Word 16) (h : Chain) (n : Nat) :
    roundsOn x h (n + 1) = roundOn x (BitVec.ofNat 6 n) (roundsOn x h n) := rfl

/-- The last of the 64 rounds. -/
theorem roundsOn_full (x : Vector Word 16) (h : Chain) :
    roundsOn x h roundsPerBlock = roundOn x 63#6 (roundsOn x h 63) := rfl

@[simp] theorem chainOf_zero (p : Nat → Byte) : chainOf p 0 = iv := rfl

theorem chainOf_succ (p : Nat → Byte) (n : Nat) :
    chainOf p (n + 1) = compress (chainOf p n) (blockWords p n) := rfl

theorem padded_message {len : DWord} (msg : Nat → Byte) {j : Nat} (h : j < len.toNat) :
    padded len msg j = msg j := by
  simp [padded, h]

theorem padded_padding {len : DWord} (msg : Nat → Byte) {j : Nat} (h : len.toNat ≤ j) :
    padded len msg j = padByte len j := by
  simp [padded, Nat.not_lt.2 h]

/-- Word k of a block read out of the block buffer. -/
theorem blockWords_get (p : Nat → Byte) (b k : Nat) (hk : k < 16) :
    (blockWords p b)[k] = blockWord p b k := by
  interval_cases k <;> rfl

/-- With no raced byte a LOAD reads the message memory as it stands. -/
theorem msgByte_unraced {s : State} (h : s.raced = []) (j : Nat) :
    s.msgByte j = s.mem.read (s.msgAddr j) := by
  simp [State.msgByte, State.held, h]

end Sys2Proof.Machine
end

