-- ==== Sys2Proof/Laws/Decode.lean ====
section
/-! SUPPORT. The small lemmas of the decoder: its case splits over a 4-bit index or code, and that a host
operation word decodes to a register access. -/

namespace Sys2Proof

/-- The sixteen register indices and command codes. -/
theorem bv4_cases (x : BitVec 4) :
    x = 0#4 ∨ x = 1#4 ∨ x = 2#4 ∨ x = 3#4 ∨ x = 4#4 ∨ x = 5#4 ∨ x = 6#4 ∨ x = 7#4 ∨
    x = 8#4 ∨ x = 9#4 ∨ x = 10#4 ∨ x = 11#4 ∨ x = 12#4 ∨ x = 13#4 ∨ x = 14#4 ∨ x = 15#4 := by
  revert x
  decide

/-- The four round kinds and sequencer codes. -/
theorem bv2_cases (x : BitVec 2) : x = 0#2 ∨ x = 1#2 ∨ x = 2#2 ∨ x = 3#2 := by
  revert x
  decide

theorem decodeCmd_isSeq (d : Word) : (decodeCmd d).isSeq = false := by
  unfold decodeCmd
  dsimp only
  generalize d.extractLsb' 0 4 = cmd
  rcases bv4_cases cmd with
    rfl | rfl | rfl | rfl | rfl | rfl | rfl | rfl | rfl | rfl | rfl | rfl | rfl | rfl | rfl | rfl <;> rfl

theorem decodeWrite_isSeq (idx : BitVec 4) (d : Word) : (decodeWrite idx d).isSeq = false := by
  rcases bv4_cases idx with
    rfl | rfl | rfl | rfl | rfl | rfl | rfl | rfl | rfl | rfl | rfl | rfl | rfl | rfl | rfl | rfl
  · exact decodeCmd_isSeq d
  all_goals rfl

theorem decodeRead_isSeq (idx : BitVec 4) (d : Word) : (decodeRead idx d).isSeq = false := by
  rcases bv4_cases idx with
    rfl | rfl | rfl | rfl | rfl | rfl | rfl | rfl | rfl | rfl | rfl | rfl | rfl | rfl | rfl | rfl <;> rfl

/-- A host operation word decodes to a register access. -/
theorem decodeHow_isSeq (w : BitVec 37) : (decodeHow w).isSeq = false := by
  unfold decodeHow
  split
  · exact decodeWrite_isSeq _ _
  · exact decodeRead_isSeq _ _

/-! ### Masking a word field by field -/

/-- Masking a host operation word masks its three fields. -/
theorem howBits_land (we mwe : BitVec 1) (idx midx : BitVec 4) (d md : Word) :
    (howBits we idx d).toNat &&& (howBits mwe midx md).toNat =
      (howBits (we &&& mwe) (idx &&& midx) (d &&& md)).toNat := by
  rw [← BitVec.toNat_and]
  unfold howBits
  rw [BitVec.and_append, BitVec.and_append]

/-- Masking a round index masks its two fields. -/
theorem roundIndex_land (k mk : BitVec 2) (p mp : BitVec 4) :
    (roundIndex k p).toNat &&& (roundIndex mk mp).toNat = (roundIndex (k &&& mk) (p &&& mp)).toNat := by
  rw [← BitVec.toNat_and]
  unfold roundIndex
  rw [BitVec.and_append]

/-- A CTRL write's DATA masked to its command code's bits. -/
theorem ctrlData_land (hi : BitVec 28) (cmd mcmd : BitVec 4) :
    (hi ++ cmd : Word) &&& (0#28 ++ mcmd) = (0#28 ++ (cmd &&& mcmd) : Word) := by
  rw [BitVec.and_append, BitVec.and_zero]

end Sys2Proof
end

