-- ==== Sys2Proof/Laws/PerInstr.lean ====
section
/-! SUPPORT. Per instruction: a well-formed instruction's word selects the row spec/opcode_table.json gives that
instruction (30_encoding.md R84). -/

namespace Sys2Proof.Laws.RowMatch

/-- The word of a well-formed instruction selects its row of the opcode table. -/
def Statement (i : Instr) : Prop := i.wf = true → (rowOf i).selects (encode i) = true

/-- A host operation word selects a row iff its masked fields are the row's. -/
theorem selects_how {we mwe vwe : BitVec 1} {idx midx vidx : BitVec 4} {d md vd : Word}
    (h1 : we &&& mwe = vwe) (h2 : idx &&& midx = vidx) (h3 : d &&& md = vd) :
    Row.selects ⟨.how, (howBits mwe midx md).toNat, (howBits vwe vidx vd).toNat⟩
      ⟨.how, (howBits we idx d).toNat⟩ = true := by
  simp [Row.selects, howBits_land, h1, h2, h3]

/-- A round index selects a row iff its kind is the row's. -/
theorem selects_round (k : BitVec 2) (p : BitVec 4) :
    Row.selects ⟨.ridx, (roundIndex 3#2 0#4).toNat, (roundIndex k 0#4).toNat⟩
      ⟨.ridx, (roundIndex k p).toNat⟩ = true := by
  have hk : k &&& 3#2 = k := by revert k; decide
  simp [Row.selects, roundIndex_land, hk]

theorem cmdNop (hi : BitVec 28) : Statement (.cmdNop hi) := by
  intro _
  exact selects_how (mwe := 1#1) (midx := 15#4) (md := 0#28 ++ 15#4) (vd := 0#28 ++ 0#4) rfl rfl
    (ctrlData_land hi 0#4 15#4)

theorem cmdStart (hi : BitVec 28) : Statement (.cmdStart hi) := by
  intro _
  exact selects_how (mwe := 1#1) (midx := 15#4) (md := 0#28 ++ 15#4) (vd := 0#28 ++ 1#4) rfl rfl
    (ctrlData_land hi 1#4 15#4)

theorem cmdAbort (hi : BitVec 28) : Statement (.cmdAbort hi) := by
  intro _
  exact selects_how (mwe := 1#1) (midx := 15#4) (md := 0#28 ++ 15#4) (vd := 0#28 ++ 2#4) rfl rfl
    (ctrlData_land hi 2#4 15#4)

theorem cmdReserved0011 (hi : BitVec 28) : Statement (.cmdReserved0011 hi) := by
  intro _
  exact selects_how (mwe := 1#1) (midx := 15#4) (md := 0#28 ++ 15#4) (vd := 0#28 ++ 3#4) rfl rfl
    (ctrlData_land hi 3#4 15#4)

theorem cmdReserved01xx (hi : BitVec 28) (cmd : BitVec 4) : Statement (.cmdReserved01xx hi cmd) := by
  intro h
  have hc : cmd &&& 12#4 = 4#4 := by
    revert h
    simp only [Instr.wf]
    revert cmd
    decide
  exact selects_how (mwe := 1#1) (midx := 15#4) (md := 0#28 ++ 12#4) (vd := 0#28 ++ 4#4) rfl rfl
    (by rw [ctrlData_land, hc])

theorem cmdReserved1xxx (hi : BitVec 28) (cmd : BitVec 4) : Statement (.cmdReserved1xxx hi cmd) := by
  intro h
  have hc : cmd &&& 8#4 = 8#4 := by
    revert h
    simp only [Instr.wf]
    revert cmd
    decide
  exact selects_how (mwe := 1#1) (midx := 15#4) (md := 0#28 ++ 8#4) (vd := 0#28 ++ 8#4) rfl rfl
    (by rw [ctrlData_land, hc])

theorem wrStatus (data : Word) : Statement (.wrStatus data) := by
  intro _
  exact selects_how (mwe := 1#1) (midx := 15#4) (md := 0#32) (vd := 0#32) rfl rfl (BitVec.and_zero)

theorem wrMsgBase (data : Word) : Statement (.wrMsgBase data) := by
  intro _
  exact selects_how (mwe := 1#1) (midx := 15#4) (md := 0#32) (vd := 0#32) rfl rfl (BitVec.and_zero)

theorem wrMsgLenLo (data : Word) : Statement (.wrMsgLenLo data) := by
  intro _
  exact selects_how (mwe := 1#1) (midx := 15#4) (md := 0#32) (vd := 0#32) rfl rfl (BitVec.and_zero)

theorem wrMsgLenHi (data : Word) : Statement (.wrMsgLenHi data) := by
  intro _
  exact selects_how (mwe := 1#1) (midx := 15#4) (md := 0#32) (vd := 0#32) rfl rfl (BitVec.and_zero)

theorem wrId (data : Word) : Statement (.wrId data) := by
  intro _
  exact selects_how (mwe := 1#1) (midx := 15#4) (md := 0#32) (vd := 0#32) rfl rfl (BitVec.and_zero)

theorem wrRsvd (idx : BitVec 4) (data : Word) : Statement (.wrRsvd idx data) := by
  intro h
  have hc : idx &&& 14#4 = 6#4 := by
    revert h
    simp only [Instr.wf]
    revert idx
    decide
  exact selects_how (mwe := 1#1) (midx := 14#4) (md := 0#32) (vd := 0#32) rfl hc (BitVec.and_zero)

theorem wrDigest (idx : BitVec 4) (data : Word) : Statement (.wrDigest idx data) := by
  intro h
  have hc : idx &&& 8#4 = 8#4 := by
    revert h
    simp only [Instr.wf]
    revert idx
    decide
  exact selects_how (mwe := 1#1) (midx := 8#4) (md := 0#32) (vd := 0#32) rfl hc (BitVec.and_zero)

theorem rdCtrl (data : Word) : Statement (.rdCtrl data) := by
  intro _
  exact selects_how (mwe := 1#1) (midx := 15#4) (md := 0#32) (vd := 0#32) rfl rfl (BitVec.and_zero)

theorem rdStatus (data : Word) : Statement (.rdStatus data) := by
  intro _
  exact selects_how (mwe := 1#1) (midx := 15#4) (md := 0#32) (vd := 0#32) rfl rfl (BitVec.and_zero)

theorem rdMsgBase (data : Word) : Statement (.rdMsgBase data) := by
  intro _
  exact selects_how (mwe := 1#1) (midx := 15#4) (md := 0#32) (vd := 0#32) rfl rfl (BitVec.and_zero)

theorem rdMsgLenLo (data : Word) : Statement (.rdMsgLenLo data) := by
  intro _
  exact selects_how (mwe := 1#1) (midx := 15#4) (md := 0#32) (vd := 0#32) rfl rfl (BitVec.and_zero)

theorem rdMsgLenHi (data : Word) : Statement (.rdMsgLenHi data) := by
  intro _
  exact selects_how (mwe := 1#1) (midx := 15#4) (md := 0#32) (vd := 0#32) rfl rfl (BitVec.and_zero)

theorem rdId (data : Word) : Statement (.rdId data) := by
  intro _
  exact selects_how (mwe := 1#1) (midx := 15#4) (md := 0#32) (vd := 0#32) rfl rfl (BitVec.and_zero)

theorem rdRsvd (idx : BitVec 4) (data : Word) : Statement (.rdRsvd idx data) := by
  intro h
  have hc : idx &&& 14#4 = 6#4 := by
    revert h
    simp only [Instr.wf]
    revert idx
    decide
  exact selects_how (mwe := 1#1) (midx := 14#4) (md := 0#32) (vd := 0#32) rfl hc (BitVec.and_zero)

theorem rdDigestA (data : Word) : Statement (.rdDigestA data) := by
  intro _
  exact selects_how (mwe := 1#1) (midx := 15#4) (md := 0#32) (vd := 0#32) rfl rfl (BitVec.and_zero)

theorem rdDigestB (data : Word) : Statement (.rdDigestB data) := by
  intro _
  exact selects_how (mwe := 1#1) (midx := 15#4) (md := 0#32) (vd := 0#32) rfl rfl (BitVec.and_zero)

theorem rdDigestC (data : Word) : Statement (.rdDigestC data) := by
  intro _
  exact selects_how (mwe := 1#1) (midx := 15#4) (md := 0#32) (vd := 0#32) rfl rfl (BitVec.and_zero)

theorem rdDigestD (data : Word) : Statement (.rdDigestD data) := by
  intro _
  exact selects_how (mwe := 1#1) (midx := 15#4) (md := 0#32) (vd := 0#32) rfl rfl (BitVec.and_zero)

theorem rdDigestSwapA (data : Word) : Statement (.rdDigestSwapA data) := by
  intro _
  exact selects_how (mwe := 1#1) (midx := 15#4) (md := 0#32) (vd := 0#32) rfl rfl (BitVec.and_zero)

theorem rdDigestSwapB (data : Word) : Statement (.rdDigestSwapB data) := by
  intro _
  exact selects_how (mwe := 1#1) (midx := 15#4) (md := 0#32) (vd := 0#32) rfl rfl (BitVec.and_zero)

theorem rdDigestSwapC (data : Word) : Statement (.rdDigestSwapC data) := by
  intro _
  exact selects_how (mwe := 1#1) (midx := 15#4) (md := 0#32) (vd := 0#32) rfl rfl (BitVec.and_zero)

theorem rdDigestSwapD (data : Word) : Statement (.rdDigestSwapD data) := by
  intro _
  exact selects_how (mwe := 1#1) (midx := 15#4) (md := 0#32) (vd := 0#32) rfl rfl (BitVec.and_zero)

theorem roundF (p : BitVec 4) : Statement (.roundF p) := by
  intro _
  exact selects_round 0#2 p

theorem roundG (p : BitVec 4) : Statement (.roundG p) := by
  intro _
  exact selects_round 1#2 p

theorem roundH (p : BitVec 4) : Statement (.roundH p) := by
  intro _
  exact selects_round 2#2 p

theorem roundI (p : BitVec 4) : Statement (.roundI p) := by
  intro _
  exact selects_round 3#2 p

theorem seqLoad : Statement .seqLoad := by
  intro _
  decide

theorem seqRound : Statement .seqRound := by
  intro _
  decide

theorem seqFinish : Statement .seqFinish := by
  intro _
  decide

end Sys2Proof.Laws.RowMatch
end

