-- ==== Sys2Proof/Laws/Step.lean ====
section
/-! SUPPORT. What a step can do, said once: the move it takes and, for a register access, everything an
access can change. -/

namespace Sys2Proof.Machine

variable {s t : State}

@[simp] theorem runFetched_run (i : Instr) (s : State) : runFetched (.run i s) = exec i s := rfl

@[simp] theorem runFetched_move (r : Result) : runFetched (.move r) = r := rfl

/-- Everything a register access can do to the state s. -/
inductive AccessEffect (s : State) : State → Prop
  | nothing : AccessEffect s s
  | answer (v : Word) : AccessEffect s (respond v s)
  | clear : AccessEffect s (clearErr s)
  | abort : AccessEffect s (abortMessage s)
  | reserved : AccessEffect s (raiseErr errReservedCmd s)
  | startRefused (hb : s.busy = true) : AccessEffect s (raiseErr errStartWhileBusy s)
  | writeRefused (hb : s.busy = true) : AccessEffect s (raiseErr errCfgWriteWhileBusy s)
  | start (hb : s.busy = false) : AccessEffect s (beginMessage s)
  | base (hb : s.busy = false) (b : Word) : AccessEffect s { s with msgBase := b }
  | length (hb : s.busy = false) (l : DWord) : AccessEffect s { s with msgLen := l }

/-- A register access does one of the things of AccessEffect. -/
theorem exec_access_effect {i : Instr} (hi : i.isSeq = false) (h : exec i s = .next t) :
    AccessEffect s t := by
  have cfg : ∀ x : State, Host.Outcome.next (φ := Fault) (ρ := Refusal) (writeConfig x s) = .next t →
      (s.busy = true ∧ t = raiseErr errCfgWriteWhileBusy s) ∨ (s.busy = false ∧ t = x) := by
    intro x hx
    unfold writeConfig at hx
    split at hx <;> simp_all
  cases i with
  | cmdStart hi =>
    simp only [exec, execCmdStart] at h
    split at h
    · rename_i hb
      cases h
      exact .startRefused hb
    · rename_i hb
      cases h
      exact .start (by simpa using hb)
  | wrStatus data =>
    simp only [exec, execWrStatus] at h
    split at h
    · cases h; exact .clear
    · cases h; exact .nothing
  | wrMsgBase data =>
    rcases cfg _ h with ⟨hb, rfl⟩ | ⟨hb, rfl⟩
    · exact .writeRefused hb
    · exact .base hb _
  | wrMsgLenLo data =>
    rcases cfg _ h with ⟨hb, rfl⟩ | ⟨hb, rfl⟩
    · exact .writeRefused hb
    · exact .length hb _
  | wrMsgLenHi data =>
    rcases cfg _ h with ⟨hb, rfl⟩ | ⟨hb, rfl⟩
    · exact .writeRefused hb
    · exact .length hb _
  | roundF | roundG | roundH | roundI | seqLoad | seqRound | seqFinish => simp [Instr.isSeq] at hi
  | cmdNop | wrId | wrRsvd | wrDigest => cases h; exact .nothing
  | cmdAbort => cases h; exact .abort
  | cmdReserved0011 | cmdReserved01xx | cmdReserved1xxx => cases h; exact .reserved
  | rdCtrl | rdStatus | rdMsgBase | rdMsgLenLo | rdMsgLenHi | rdId | rdRsvd | rdDigestA | rdDigestB
  | rdDigestC | rdDigestD | rdDigestSwapA | rdDigestSwapB | rdDigestSwapC | rdDigestSwapD =>
    cases h
    exact .answer _

/-- A LOAD that does not have to wait runs. -/
theorem exec_seqLoad {s : State} (hf : s.fsm = .load) (hw : s.loadWaits = false) :
    exec .seqLoad s = .next (loadBlock s) := by
  simp [exec, execSeqLoad, hf, hw]

/-- What the sequencer's turn fetches. -/
theorem fetchTurn_cases (u : State) :
    (u.rst = false ∧ u.fsm = .load ∧ fetchTurn u = .run .seqLoad u) ∨
    (u.rst = false ∧ u.fsm = .round ∧ fetchTurn u = .run .seqRound u) ∨
    (u.rst = false ∧ u.fsm = .finish ∧ fetchTurn u = .run .seqFinish u) ∨
    ((u.rst = true ∨ u.fsm = .idle) ∧ fetchTurn u = .move (.next u)) := by
  cases hr : u.rst <;> cases hf : u.fsm <;> simp [fetchTurn, hr, hf] <;> rfl

/-- Everything a turn of the sequencer can do to the state s. -/
inductive TurnEffect (s : State) : State → Prop
  | waits (hf : s.fsm = .load) (hr : s.rst = false) (hw : s.loadWaits = true) : TurnEffect s s
  | load (hf : s.fsm = .load) (hr : s.rst = false) (hw : s.loadWaits = false) : TurnEffect s (loadBlock s)
  | round (hf : s.fsm = .round) (hr : s.rst = false) :
      TurnEffect s (roundStep (roundFn s.i) (gIndex s.i) s)
  | finish (hf : s.fsm = .finish) (hr : s.rst = false) : TurnEffect s (finishBlock s)
  | quiet (hq : s.rst = true ∨ s.fsm = .idle) : TurnEffect s s

/-- A turn of the sequencer does one of the things of TurnEffect. -/
theorem turn_effect {u : State} (h : runFetched (fetchTurn u) = .next t) : TurnEffect u t := by
  rcases fetchTurn_cases u with ⟨hr, hf, he⟩ | ⟨hr, hf, he⟩ | ⟨hr, hf, he⟩ | ⟨hq, he⟩ <;> rw [he] at h
  · have ht := (whenEnabled_next h).2
    cases hw : u.loadWaits <;> rw [hw] at ht <;> subst ht
    · exact .load hf hr hw
    · exact .waits hf hr hw
  · cases (whenEnabled_next h).2
    exact .round hf hr
  · cases (whenEnabled_next h).2
    exact .finish hf hr
  · cases h
    exact .quiet hq

/-- The state the next move acts on: the moves after it are left. -/
def State.rest (s : State) : State := { s with inputs := s.inputs.tail }

@[simp] theorem State.rest_acc (s : State) : s.rest.acc = s.acc := rfl
@[simp] theorem State.rest_snap (s : State) : s.rest.snap = s.snap := rfl
@[simp] theorem State.rest_m (s : State) : s.rest.m = s.m := rfl
@[simp] theorem State.rest_i (s : State) : s.rest.i = s.i := rfl
@[simp] theorem State.rest_blk (s : State) : s.rest.blk = s.blk := rfl
@[simp] theorem State.rest_fsm (s : State) : s.rest.fsm = s.fsm := rfl
@[simp] theorem State.rest_done (s : State) : s.rest.done = s.done := rfl
@[simp] theorem State.rest_err (s : State) : s.rest.err = s.err := rfl
@[simp] theorem State.rest_errCode (s : State) : s.rest.errCode = s.errCode := rfl
@[simp] theorem State.rest_msgBase (s : State) : s.rest.msgBase = s.msgBase := rfl
@[simp] theorem State.rest_msgLen (s : State) : s.rest.msgLen = s.msgLen := rfl
@[simp] theorem State.rest_rdata (s : State) : s.rest.rdata = s.rdata := rfl
@[simp] theorem State.rest_rst (s : State) : s.rest.rst = s.rst := rfl
@[simp] theorem State.rest_memAck (s : State) : s.rest.memAck = s.memAck := rfl
@[simp] theorem State.rest_fetched (s : State) : s.rest.fetched = s.fetched := rfl
@[simp] theorem State.rest_mem (s : State) : s.rest.mem = s.mem := rfl
@[simp] theorem State.rest_memAddrW (s : State) : s.rest.memAddrW = s.memAddrW := rfl
@[simp] theorem State.rest_raced (s : State) : s.rest.raced = s.raced := rfl
@[simp] theorem State.rest_draws (s : State) : s.rest.draws = s.draws := rfl
@[simp] theorem State.rest_reads (s : State) : s.rest.reads = s.reads := rfl
@[simp] theorem State.rest_inputs (s : State) : s.rest.inputs = s.inputs.tail := rfl
@[simp] theorem State.rest_busy (s : State) : s.rest.busy = s.busy := rfl
@[simp] theorem State.rest_msgAddr (s : State) (j : Nat) : s.rest.msgAddr j = s.msgAddr j := rfl
@[simp] theorem State.rest_msgByte (s : State) (j : Nat) : s.rest.msgByte j = s.msgByte j := rfl
@[simp] theorem State.rest_portPos (s : State) : s.rest.portPos = s.portPos := rfl
@[simp] theorem State.rest_memReq (s : State) : s.rest.memReq = s.memReq := rfl

/-- Everything a step can do to the state s. -/
inductive StepEffect (s : State) : State → Prop
  | access (hr : s.rst = false) {t : State} (h : AccessEffect s.rest t) : StepEffect s t
  | ignored (hr : s.rst = true) (b : Bool) : StepEffect s (ignoreAccess b s.rest)
  | turn {t : State} (h : TurnEffect s.rest t) : StepEffect s t
  | memWrite (a : Nat) (b : Byte) (ha : a < 2 ^ s.memAddrW) :
      StepEffect s { s.rest with
        mem := s.mem.write a b,
        raced := if s.busy then s.raced ++ [(a, s.mem.read a)] else s.raced }
  | rst (level : Bool) : StepEffect s (setRst level s.rest)
  | answer (on : Bool) : StepEffect s { s.rest with memAck := on }
  | port (hq : s.rest.memReq = true) : StepEffect s (readByte s.rest)
  | portQuiet (hq : s.rest.memReq = false) : StepEffect s s.rest

/-- A step does one of the things of StepEffect. Use s.rest through its field lemmas and do not unfold it: a
simp that rewrites inside the record of 20 fields leaves a term that is slow to check. -/
theorem step_effect (h : step s = .next t) : StepEffect s t := by
  obtain ⟨hin, hrest⟩ | ⟨e, l, hin⟩ : (s.inputs = [] ∧ s.rest = s) ∨ ∃ e l, s.inputs = e :: l := by
    cases hl : s.inputs with
    | nil => exact .inl ⟨rfl, by cases s; simp_all [State.rest]⟩
    | cons e l => exact .inr ⟨e, l, rfl⟩
  · simp only [step, fetch, hin] at h
    exact .turn (hrest.symm ▸ turn_effect h)
  · have hrest : s.rest = { s with inputs := l } := by simp [State.rest, hin]
    simp only [step, fetch, hin] at h
    rw [← hrest] at h
    cases e with
    | access w =>
      cases hr : s.rst
      · have hr' : s.rest.rst = false := hr
        simp only [fetchMove, fetchAccess, hr'] at h
        exact .access hr (exec_access_effect (decodeHow_isSeq w) h)
      · have hr' : s.rest.rst = true := hr
        simp only [fetchMove, fetchAccess, hr'] at h
        cases h
        exact .ignored hr _
    | turn => exact .turn (turn_effect h)
    | memWrite a b =>
      obtain ⟨ha, rfl⟩ := hostMemWrite_next h
      exact .memWrite a b ha
    | rst l => cases h; exact .rst l
    | answer on => cases h; exact .answer on
    | ack =>
      cases hq : s.rest.memReq <;> simp only [fetchMove, portCycle, hq] at h <;> cases h
      · exact .portQuiet hq
      · exact .port hq

end Sys2Proof.Machine
end

