-- ==== Sys2Proof/Laws/Run.lean ====
section
/-! SUPPORT. Runs of several steps, what a turn of an undisturbed sequencer does, and which positions a LOAD
reads. -/

namespace Sys2Proof.Machine

/-! ### Runs -/

/-- One more step at the end of a run. -/
theorem run_succ_last (M : Host.Core) (n : Nat) (s : M.State) :
    M.run (n + 1) s =
      match M.run n s with
      | .next t => M.step t
      | .fault r => .fault r
      | .refused r => .refused r := by
  induction n generalizing s with
  | zero =>
    simp only [Host.Core.run]
    cases M.step s <;> rfl
  | succ n ih =>
    rw [Host.Core.run]
    conv_rhs => rw [Host.Core.run]
    cases M.step s with
    | next t => exact ih t
    | fault r => rfl
    | refused r => rfl

/-- A run continued by another. -/
theorem run_add (M : Host.Core) (a b : Nat) (s : M.State) {t : M.State} (h : M.run a s = .next t) :
    M.run (a + b) s = M.run b t := by
  induction b with
  | zero => exact h
  | succ b ih => rw [← Nat.add_assoc, run_succ_last, ih, ← run_succ_last]

/-- One more step of this machine at the end of a run that answers t. -/
theorem run_next (n : Nat) {s t : State} (h : Host.Core.run Sys2Proof.core n s = .next t) :
    Host.Core.run Sys2Proof.core (n + 1) s = step t := by
  rw [run_succ_last Sys2Proof.core n s, h]
  rfl

/-! ### The sequencer with no move pending -/

variable {s : State}

theorem step_load (hi : s.inputs = []) (hr : s.rst = false) (hf : s.fsm = .load) (hw : s.loadWaits = false) :
    step s = .next (loadBlock s) := by
  rcases fetchTurn_cases s with ⟨_, _, h⟩ | ⟨_, h, _⟩ | ⟨_, h, _⟩ | ⟨h, _⟩
  · simp only [step, fetch, hi, h, runFetched_run, exec, execSeqLoad, hf, decide_true, whenEnabled_true, hw]
    rfl
  all_goals simp [hf, hr] at h

theorem step_round (hi : s.inputs = []) (hr : s.rst = false) (hf : s.fsm = .round) :
    step s = .next (roundStep (roundFn s.i) (gIndex s.i) s) := by
  rcases fetchTurn_cases s with ⟨_, h, _⟩ | ⟨_, _, h⟩ | ⟨_, h, _⟩ | ⟨h, _⟩
  rotate_left
  · simp only [step, fetch, hi, h, runFetched_run, exec, execSeqRound, hf, decide_true, whenEnabled_true]
  all_goals simp [hf, hr] at h

theorem step_finish (hi : s.inputs = []) (hr : s.rst = false) (hf : s.fsm = .finish) :
    step s = .next (finishBlock s) := by
  rcases fetchTurn_cases s with ⟨_, h, _⟩ | ⟨_, h, _⟩ | ⟨_, _, h⟩ | ⟨h, _⟩
  rotate_left 2
  · simp only [step, fetch, hi, h, runFetched_run, exec, execSeqFinish, hf, decide_true, whenEnabled_true]
  all_goals simp [hf, hr] at h

/-! ### The positions a LOAD reads -/

/-- The positions read in the blocks before b, f bytes of block b read too, and those of it that are left, are the
positions of the blocks up to b. -/
theorem range_append_portLeft (len : DWord) (b f : Nat) (hf : f ≤ blockBytes len b) :
    List.range (min (64 * b) len.toNat + f) ++ List.range' (64 * b + f) (blockBytes len b - f) =
      List.range (min (64 * (b + 1)) len.toNat) := by
  unfold blockBytes at *
  rw [List.range_eq_range', List.range_eq_range']
  by_cases hL : 64 * b ≤ len.toNat
  · rw [show min (64 * b) len.toNat + f = 64 * b + f by omega,
      show min (64 * (b + 1)) len.toNat = 64 * b + f + (min 64 (len.toNat - 64 * b) - f) by omega,
      ← List.range'_append (s := 0) (m := 64 * b + f)]
    simp
  · rw [show min 64 (len.toNat - 64 * b) - f = 0 by omega,
      show min (64 * (b + 1)) len.toNat = min (64 * b) len.toNat + f by omega]
    simp

/-! ### The bytes of an assembled word -/

/-- The bits of an assembled word, byte by byte. -/
theorem le32_getLsbD (q0 q1 q2 q3 : Byte) (k : Nat) :
    (le32 q0 q1 q2 q3).getLsbD k =
      if k < 8 then q0.getLsbD k
      else if k - 8 < 8 then q1.getLsbD (k - 8)
      else if k - 8 - 8 < 8 then q2.getLsbD (k - 8 - 8)
      else q3.getLsbD (k - 8 - 8 - 8) := by
  show BitVec.getLsbD (w := 8 + 8 + 8 + 8) (q3 ++ q2 ++ q1 ++ q0) k = _
  simp only [BitVec.getLsbD_append]

/-- A bit of a byte of a word. -/
theorem byteOf_getLsbD (x : Word) (n k : Nat) :
    (byteOf x n).getLsbD k = (decide (k < 8) && x.getLsbD (8 * n + k)) := by
  simp [byteOf]

/-- The bytes of an assembled word are the bytes it was assembled from. -/
theorem byteOf_le32 (q0 q1 q2 q3 : Byte) :
    byteOf (le32 q0 q1 q2 q3) 0 = q0 ∧ byteOf (le32 q0 q1 q2 q3) 1 = q1 ∧
    byteOf (le32 q0 q1 q2 q3) 2 = q2 ∧ byteOf (le32 q0 q1 q2 q3) 3 = q3 := by
  refine ⟨?_, ?_, ?_, ?_⟩ <;>
    (apply BitVec.eq_of_getLsbD_eq
     intro k hk
     rw [byteOf_getLsbD, le32_getLsbD, decide_eq_true hk, Bool.true_and])
  · rw [if_pos (by omega), Nat.mul_zero, Nat.zero_add]
  · rw [if_neg (by omega), if_pos (by omega), show 8 * 1 + k - 8 = k by omega]
  · rw [if_neg (by omega), if_neg (by omega), if_pos (by omega), show 8 * 2 + k - 8 - 8 = k by omega]
  · rw [if_neg (by omega), if_neg (by omega), if_neg (by omega), show 8 * 3 + k - 8 - 8 - 8 = k by omega]
/-- Byte n of word k of a block. -/
theorem byteOf_blockWords (p : Nat → Byte) (b k n : Nat) (hk : k < 16) (hn : n < 4) :
    byteOf (blockWords p b)[k] n = p (64 * b + 4 * k + n) := by
  rw [blockWords_get _ _ _ hk, blockWord]
  obtain ⟨h0, h1, h2, h3⟩ := byteOf_le32 (p (64 * b + 4 * k)) (p (64 * b + 4 * k + 1)) (p (64 * b + 4 * k + 2))
    (p (64 * b + 4 * k + 3))
  interval_cases n <;> simp_all

end Sys2Proof.Machine
end

