-- ==== Sys2Proof/Tests/Slice0.lean ====
section
/-! SUPPORT. The model's own tests: well-formedness smoke tests, every constructor's decoding from a word written
out from 30_encoding.md, single steps with the values of the spec's worked examples (rule or row of
95_test_vectors.md in each comment), and for every statement with hypotheses a state and operands that meet them. -/

namespace Sys2Proof.Tests

open Sys2Proof Sys2Proof.Machine Sys2Proof.Safety

/-! ### Helpers -/

/-- The next state of a result. -/
def nextOf : Result → Option State
  | .next t => some t
  | .fault _ => none
  | .refused _ => none

/-- STATUS after a result. -/
def statusOf (r : Result) : Option Word := (nextOf r).map statusWord

/-- The accumulator after a result. -/
def accOf (r : Result) : Option Chain := (nextOf r).map fun t => t.acc

/-- The data a read answered. -/
def rdataOf (r : Result) : Option Word := (nextOf r).map fun t => t.rdata

/-- One step that presents this host operation word. -/
def present (w : BitVec 37) (s : State) : Result := step { s with inputs := [.access w] }

/-- "running" of 95 2.9: after START with BASE = 0x100, L = 3. -/
def running : State := { State.reset with msgBase := 0x100#32, msgLen := 3#64, fsm := .load }

/-- "after WR CTRL, 7" of 95 2.9. -/
def errTwo : State := { State.reset with err := true, errCode := 2#4 }

/-- "abc" done of 95 2.9. -/
def abcDone : State :=
  { State.reset with
    msgBase := 0x100#32, msgLen := 3#64, done := true, blk := 1#64,
    acc := ⟨0x98500190#32, 0xb04fd23c#32, 0x7d3f96d6#32, 0x727fe128#32⟩ }

/-- The running state with "abc" at 0x100. -/
def abcLoad : State := { running with mem := [(0x100, 0x61#8), (0x101, 0x62#8), (0x102, 0x63#8)] }

/-- Round i of the empty message's block, from an accumulator. -/
def emptyRound (i : BitVec 6) (x : Chain) : State :=
  { State.reset with
    fsm := .round, i := i, acc := x, snap := iv,
    m := #v[0x80#32, 0#32, 0#32, 0#32, 0#32, 0#32, 0#32, 0#32, 0#32, 0#32, 0#32, 0#32, 0#32, 0#32, 0#32, 0#32] }

/-- FINISH of the empty message (R176's example). -/
def emptyFinish : State :=
  { emptyRound 63#6 ⟨0x7246fad3#32, 0x14e45506#32, 0xff4ea3eb#32, 0x6e10a476#32⟩ with fsm := .finish }

/-- A word decodes to an instruction. -/
def reads (f : Fmt) (w : Nat) (i : Instr) : Bool :=
  match decode ⟨f, w⟩ with
  | .ok j => decide (j = i)
  | .error _ => false

/-! ### Well-formedness refuses what no row has -/

theorem test_wf_refuses_cmd_3_as_01xx : (Instr.cmdReserved01xx 0#28 3#4).wf = false := by decide
theorem test_wf_refuses_cmd_8_as_01xx : (Instr.cmdReserved01xx 0#28 8#4).wf = false := by decide
theorem test_wf_refuses_cmd_7_as_1xxx : (Instr.cmdReserved1xxx 0#28 7#4).wf = false := by decide
theorem test_wf_refuses_wr_rsvd_5 : (Instr.wrRsvd 5#4 0#32).wf = false := by decide
theorem test_wf_refuses_wr_rsvd_8 : (Instr.wrRsvd 8#4 0#32).wf = false := by decide
theorem test_wf_refuses_rd_rsvd_5 : (Instr.rdRsvd 5#4 0#32).wf = false := by decide
theorem test_wf_refuses_rd_rsvd_8 : (Instr.rdRsvd 8#4 0#32).wf = false := by decide
theorem test_wf_refuses_wr_digest_7 : (Instr.wrDigest 7#4 0#32).wf = false := by decide
theorem test_wf_admits_the_edges :
    (Instr.cmdReserved01xx 0#28 4#4).wf = true ∧ (Instr.cmdReserved01xx 0#28 7#4).wf = true ∧
    (Instr.cmdReserved1xxx 0#28 8#4).wf = true ∧ (Instr.cmdReserved1xxx 0#28 15#4).wf = true ∧
    (Instr.wrRsvd 6#4 0#32).wf = true ∧ (Instr.wrRsvd 7#4 0#32).wf = true ∧
    (Instr.wrDigest 8#4 0#32).wf = true ∧ (Instr.wrDigest 15#4 0#32).wf = true := by decide

/-! ### Decoding, one written word for each constructor (R70 to R73, R80, R82; the words of 95 2.9) -/

theorem test_decode_cmdNop : reads .how 0x10fffffff0 (.cmdNop 0xfffffff#28) = true := by decide
theorem test_decode_cmdStart : reads .how 0x1000000011 (.cmdStart 1#28) = true := by decide
theorem test_decode_cmdAbort : reads .how 0x1000000002 (.cmdAbort 0#28) = true := by decide
theorem test_decode_cmdReserved0011 : reads .how 0x1000000003 (.cmdReserved0011 0#28) = true := by decide
theorem test_decode_cmdReserved01xx : reads .how 0x1000000006 (.cmdReserved01xx 0#28 6#4) = true := by decide
theorem test_decode_cmdReserved1xxx : reads .how 0x100000000d (.cmdReserved1xxx 0#28 13#4) = true := by decide
theorem test_decode_wrStatus : reads .how 0x1100000004 (.wrStatus 4#32) = true := by decide
theorem test_decode_wrMsgBase : reads .how 0x12fffffffe (.wrMsgBase 0xfffffffe#32) = true := by decide
theorem test_decode_wrMsgLenLo : reads .how 0x1300000003 (.wrMsgLenLo 3#32) = true := by decide
theorem test_decode_wrMsgLenHi : reads .how 0x1420000000 (.wrMsgLenHi 0x20000000#32) = true := by decide
theorem test_decode_wrId : reads .how 0x15ffffffff (.wrId 0xffffffff#32) = true := by decide
theorem test_decode_wrRsvd : reads .how 0x1612345678 (.wrRsvd 6#4 0x12345678#32) = true := by decide
theorem test_decode_wrDigest : reads .how 0x1800000000 (.wrDigest 8#4 0#32) = true := by decide
theorem test_decode_rdCtrl : reads .how 0x0000000000 (.rdCtrl 0#32) = true := by decide
theorem test_decode_rdStatus : reads .how 0x0100000000 (.rdStatus 0#32) = true := by decide
theorem test_decode_rdMsgBase : reads .how 0x0200000000 (.rdMsgBase 0#32) = true := by decide
theorem test_decode_rdMsgLenLo : reads .how 0x0300000000 (.rdMsgLenLo 0#32) = true := by decide
theorem test_decode_rdMsgLenHi : reads .how 0x0400000000 (.rdMsgLenHi 0#32) = true := by decide
theorem test_decode_rdId : reads .how 0x0500000000 (.rdId 0#32) = true := by decide
theorem test_decode_rdRsvd : reads .how 0x0700000000 (.rdRsvd 7#4 0#32) = true := by decide
theorem test_decode_rdDigestA : reads .how 0x0800000000 (.rdDigestA 0#32) = true := by decide
theorem test_decode_rdDigestB : reads .how 0x0900000000 (.rdDigestB 0#32) = true := by decide
theorem test_decode_rdDigestC : reads .how 0x0a00000000 (.rdDigestC 0#32) = true := by decide
theorem test_decode_rdDigestD : reads .how 0x0b00000000 (.rdDigestD 0#32) = true := by decide
theorem test_decode_rdDigestSwapA : reads .how 0x0c00000000 (.rdDigestSwapA 0#32) = true := by decide
theorem test_decode_rdDigestSwapB : reads .how 0x0d00000000 (.rdDigestSwapB 0#32) = true := by decide
theorem test_decode_rdDigestSwapC : reads .how 0x0e00000000 (.rdDigestSwapC 0#32) = true := by decide
theorem test_decode_rdDigestSwapD : reads .how 0x0f00000000 (.rdDigestSwapD 0#32) = true := by decide
theorem test_decode_roundF : reads .ridx 0b00_1111 (.roundF 15#4) = true := by decide
theorem test_decode_roundG : reads .ridx 0b01_0000 (.roundG 0#4) = true := by decide
theorem test_decode_roundH : reads .ridx 0b10_1001 (.roundH 9#4) = true := by decide
theorem test_decode_roundI : reads .ridx 0b11_1111 (.roundI 15#4) = true := by decide
theorem test_decode_seqLoad : reads .fsm 0b01 .seqLoad = true := by decide
theorem test_decode_seqRound : reads .fsm 0b10 .seqRound = true := by decide
theorem test_decode_seqFinish : reads .fsm 0b11 .seqFinish = true := by decide

/-- IDLE is no step, and a 38th bit is no bit of a host operation word (R82, R70). -/
theorem test_decode_refusals :
    decode ⟨.fsm, 0⟩ = .error .idleCode ∧ decode ⟨.how, 2 ^ 37⟩ = .error .tooWide ∧
    decode ⟨.ridx, 64⟩ = .error .tooWide ∧ decode ⟨.fsm, 4⟩ = .error .tooWide := ⟨rfl, rfl, rfl, rfl⟩

/-- Words as the opcode table numbers their bits, and the next step runs the one placed (log 14, 16). -/
theorem test_table_words :
    decodeTableWord 37 0x1000000001 = some (.cmdStart 0#28) ∧ decodeTableWord 40 0x0500000000 = some (.rdId 0#32) ∧
    decodeTableWord 8 0x30 = some (.roundI 0#4) ∧ decodeTableWord 8 3 = some .seqFinish ∧
    decodeTableWord 2 0 = none ∧
    statusOf (step (State.reset.withFetchWord 40 0x1000000001)) = some 0x00000001#32 ∧
    (nextOf (step (State.reset.withFetchWord 8 0x3f))).map (fun t => t.fsm) = some .finish := by decide

/-- No two rows of a format share a word: two patterns that agree on the bits both decode are one (R84). -/
theorem test_opcode_rows_disjoint :
    opcodeTable.Pairwise fun r q =>
      r.fmt ≠ q.fmt ∨ r.value &&& (r.mask &&& q.mask) ≠ q.value &&& (r.mask &&& q.mask) := by decide

/-! ### One step each, with the values of 95 2.9 (row numbers in the comments) -/

/-- Rows 17, 36. -/
theorem test_nop_while_running : nextOf (exec (.cmdNop 0xfffffff#28) running) = some running := rfl
/-- Row 18, and the STATUS word while a message runs. -/
theorem test_start_from_reset : statusOf (present 0x1000000001#37 State.reset) = some 0x00000001#32 := by decide
/-- Row 19. -/
theorem test_start_while_running : statusOf (present 0x1000000001#37 running) = some 0x00000015#32 := by decide
/-- Row 20. -/
theorem test_abort_status : statusOf (present 0x1000000002#37 running) = some 0x00000000#32 := by decide
/-- Row 20, A..D = IV; and MSG_BASE kept (R214). -/
theorem test_abort_acc :
    (nextOf (exec (.cmdAbort 0#28) (emptyRound 9#6 ⟨1#32, 2#32, 3#32, 4#32⟩))).map (fun t => (t.acc, t.i, t.fsm)) =
      some (iv, 0#6, .idle) := by decide
/-- Row 22. -/
theorem test_reserved_3 : statusOf (present 0x1000000003#37 State.reset) = some 0x00000024#32 := by decide
/-- Row 26. -/
theorem test_reserved_7 : statusOf (present 0x1000000007#37 State.reset) = some 0x00000024#32 := by decide
/-- Row 35. -/
theorem test_reserved_7_running : statusOf (present 0x1000000007#37 running) = some 0x00000025#32 := by decide
/-- Row 34. -/
theorem test_reserved_15 : statusOf (present 0x100000000f#37 State.reset) = some 0x00000024#32 := by decide
/-- Row 48. -/
theorem test_status_write_without_bit_2 : statusOf (present 0x1100000003#37 errTwo) = some 0x00000024#32 := by
  decide
/-- Row 49. -/
theorem test_status_write_with_bit_2 : statusOf (present 0x1100000004#37 errTwo) = some 0x00000000#32 := by decide
/-- Row 38. -/
theorem test_base_write : (nextOf (present 0x1200000100#37 State.reset)).map (fun t => t.msgBase) =
    some 0x100#32 := by decide
/-- Row 41. -/
theorem test_base_write_running : statusOf (present 0x1200000200#37 running) = some 0x00000035#32 := by decide
/-- R218: L[63:32] is kept. -/
theorem test_len_lo_write :
    (nextOf (exec (.wrMsgLenLo 3#32) { State.reset with msgLen := 0x2000000011111111#64 })).map
      (fun t => t.msgLen) = some 0x2000000000000003#64 := by decide
/-- Row 42. -/
theorem test_len_lo_write_running : statusOf (present 0x1300000005#37 running) = some 0x00000035#32 := by decide
/-- Row 40: L = 2^61. -/
theorem test_len_hi_write : (nextOf (present 0x1420000000#37 State.reset)).map (fun t => t.msgLen.toNat) =
    some (2 ^ 61) := by decide
/-- Row 43. -/
theorem test_len_hi_write_running : statusOf (present 0x1400000001#37 running) = some 0x00000035#32 := by decide
/-- Rows 44 to 46. -/
theorem test_ignored_writes :
    nextOf (exec (.wrId 0xffffffff#32) abcDone) = some abcDone ∧
    nextOf (exec (.wrRsvd 6#4 0x12345678#32) abcDone) = some abcDone ∧
    nextOf (exec (.wrDigest 8#4 0#32) abcDone) = some abcDone := ⟨rfl, rfl, rfl⟩
/-- Row 1: the last read's data does not stay. -/
theorem test_rd_ctrl : rdataOf (present 0x0000000000#37 { abcDone with rdata := 5#32 }) = some 0#32 := by decide
/-- Row 58, and R216's example word 0x16. -/
theorem test_rd_status : rdataOf (present 0x0100000000#37 abcDone) = some 0x00000002#32 := by decide
/-- R216's example state. -/
theorem test_rd_status_error :
    rdataOf (present 0x0100000000#37 { abcDone with err := true, errCode := 1#4 }) = some 0x00000016#32 := by decide
/-- Row 55. -/
theorem test_rd_msg_base : rdataOf (present 0x0200000000#37 running) = some 0x00000100#32 := by decide
/-- Row 56. -/
theorem test_rd_msg_len_lo : rdataOf (present 0x0300000000#37 running) = some 0x00000003#32 := by decide
/-- R227. -/
theorem test_rd_msg_len_hi :
    rdataOf (exec (.rdMsgLenHi 0#32) { running with msgLen := 0x2000000000000003#64 }) = some 0x20000000#32 := by
  decide
/-- Row 6. -/
theorem test_rd_id : rdataOf (present 0x0500000000#37 State.reset) = some 0x4d443501#32 := by decide
/-- Rows 7, 8. -/
theorem test_rd_rsvd : rdataOf (present 0x0700000000#37 abcDone) = some 0#32 := by decide
/-- Row 59. -/
theorem test_rd_digest_a : rdataOf (present 0x0800000000#37 abcDone) = some 0x98500190#32 := by decide
/-- Row 53. -/
theorem test_rd_digest_a_running : rdataOf (present 0x0800000000#37 running) = some 0#32 := by decide
/-- Row 60. -/
theorem test_rd_digest_b : rdataOf (present 0x0900000000#37 abcDone) = some 0xb04fd23c#32 := by decide
/-- Row 61. -/
theorem test_rd_digest_c : rdataOf (present 0x0a00000000#37 abcDone) = some 0x7d3f96d6#32 := by decide
/-- Row 62. -/
theorem test_rd_digest_d : rdataOf (present 0x0b00000000#37 abcDone) = some 0x727fe128#32 := by decide
/-- Row 63. -/
theorem test_rd_digest_swap_a : rdataOf (present 0x0c00000000#37 abcDone) = some 0x90015098#32 := by decide
/-- Row 54. -/
theorem test_rd_digest_swap_a_running : rdataOf (present 0x0c00000000#37 running) = some 0#32 := by decide
/-- Row 64. -/
theorem test_rd_digest_swap_b : rdataOf (present 0x0d00000000#37 abcDone) = some 0x3cd24fb0#32 := by decide
/-- Row 65. -/
theorem test_rd_digest_swap_c : rdataOf (present 0x0e00000000#37 abcDone) = some 0xd6963f7d#32 := by decide
/-- Row 66. -/
theorem test_rd_digest_swap_d : rdataOf (present 0x0f00000000#37 abcDone) = some 0x28e17f72#32 := by decide
/-- R171's example: i = 0 from IV. -/
theorem test_round_f : accOf (exec (.roundF 0#4) (emptyRound 0#6 iv)) =
    some ⟨0x10325476#32, 0xa5202774#32, 0xefcdab89#32, 0x98badcfe#32⟩ := by decide
/-- R172's example: i = 16. -/
theorem test_round_g :
    accOf (exec (.roundG 0#4) (emptyRound 16#6 ⟨0xf56c7cf1#32, 0xd6819c6a#32, 0x5aa53f75#32, 0x374943a7#32⟩)) =
      some ⟨0x374943a7#32, 0x1c7d7513#32, 0xd6819c6a#32, 0x5aa53f75#32⟩ := by decide
/-- R173's example: i = 32. -/
theorem test_round_h :
    accOf (exec (.roundH 0#4) (emptyRound 32#6 ⟨0x13707036#32, 0xa2205f1f#32, 0x1c31c384#32, 0xae7813db#32⟩)) =
      some ⟨0xae7813db#32, 0xdf63eaa1#32, 0xa2205f1f#32, 0x1c31c384#32⟩ := by decide
/-- R174's example: i = 48. -/
theorem test_round_i :
    accOf (exec (.roundI 0#4) (emptyRound 48#6 ⟨0x3f55edfd#32, 0xca7d2dbd#32, 0x68d84ea2#32, 0x22a31f54#32⟩)) =
      some ⟨0x22a31f54#32, 0x93aa2577#32, 0xca7d2dbd#32, 0x68d84ea2#32⟩ := by decide
/-- R153's example: M[0], M[1], M[14] and M[15] of "abc"; and a byte read already is not read again, whatever its
address holds by then (R53). -/
theorem test_load_abc :
    (nextOf (exec .seqLoad abcLoad)).map (fun t => [t.m[0], t.m[1], t.m[14], t.m[15]]) =
      some [0x80636261#32, 0#32, 0x00000018#32, 0#32] ∧
    (nextOf (exec .seqLoad
      { abcLoad with fetched := [0x61#8], mem := [(0x100, 0x7a#8), (0x101, 0x62#8), (0x102, 0x63#8)] })).map
      (fun t => (t.m[0], t.reads, t.fetched)) = some (0x80636261#32, [0x101, 0x102], []) := by decide
/-- 95 P4: the reads wrap at the end of the address space. -/
theorem test_load_reads_wrap :
    (nextOf (exec .seqLoad { running with msgBase := 0xfffffffe#32 })).map (fun t => t.reads) =
      some [0xfffffffe, 0xffffffff, 0] := by decide
/-- R51 and the reads of 95 2.4: the port asks for byte 0 and, that one read, for byte 1. -/
theorem test_ack_reads_one_byte :
    (abcLoad.memReq, abcLoad.memAddr) = (true, 0x100) ∧
    (nextOf (step { abcLoad with memAck := false, inputs := [.ack] })).map
      (fun t => (t.fetched, t.reads, t.memReq, t.memAddr)) = some ([0x61#8], [0x100], true, 0x101) := by decide
/-- R51, R53: no request once the block's message bytes are read, nor for padding, nor outside LOAD. -/
theorem test_no_request :
    { abcLoad with fetched := [0x61#8, 0x62#8, 0x63#8] }.memReq = false ∧ { abcLoad with msgLen := 0#64 }.memReq = false ∧
    abcDone.memReq = false ∧ { abcLoad with rst := true }.memReq = false := by decide
/-- R280: an edge with rst = 0 releases the pin. -/
theorem test_rst_released :
    nextOf (step { State.reset with rst := true, inputs := [.rst false] }) = some State.reset := rfl
/-- R171's example as the generic step of the sequencer's turn. -/
theorem test_seq_round : accOf (step (emptyRound 0#6 iv)) =
    some ⟨0x10325476#32, 0xa5202774#32, 0xefcdab89#32, 0x98badcfe#32⟩ := by decide
/-- 95 2.5, "abc", i = 63 (M[9] is 0 there too): the last round, after which fsm is FINISH and i stays 63. -/
theorem test_seq_round_63 :
    (nextOf (exec .seqRound
      (emptyRound 63#6 ⟨0x7327d604#32, 0xe484b9d8#32, 0x624d8cb2#32, 0x310ade8f#32⟩))).map
      (fun t => (t.acc, t.i, t.fsm)) =
      some (⟨0x310ade8f#32, 0xc08226b3#32, 0xe484b9d8#32, 0x624d8cb2#32⟩, 63#6, .finish) := by decide
/-- R176's example: the empty message ends. -/
theorem test_seq_finish :
    (nextOf (step emptyFinish)).map (fun t => (t.acc, statusWord t)) =
      some (⟨0xd98c1dd4#32, 0x04b2008f#32, 0x980980e9#32, 0x7e42f8ec#32⟩, 0x00000002#32) := by decide
/-- R176: a block that is not the last goes on to LOAD. -/
theorem test_seq_finish_goes_on :
    (nextOf (step { emptyFinish with msgLen := 56#64 })).map (fun t => (t.blk, t.fsm, t.done)) =
      some (1#64, .load, false) := by decide

/-! ### ALU, padding, finalization (95 2.1, 2.3, 2.7) -/

theorem test_rotl32 :
    rotl32 0x12345678#32 7 = 0x1a2b3c09#32 ∧ rotl32 0x12345678#32 23 = 0x3c091a2b#32 ∧
    rotl32 0x00000001#32 31 = 0x80000000#32 ∧ rotl32 0x12345678#32 32 = 0x12345678#32 := by decide
theorem test_round_functions :
    fnF 0x12345678#32 0x9abcdef0#32 0x0fedcba9#32 = 0x1ffddff1#32 ∧
    fnG 0x12345678#32 0x9abcdef0#32 0x0fedcba9#32 = 0x92345678#32 ∧
    fnH 0x12345678#32 0x9abcdef0#32 0x0fedcba9#32 = 0x87654321#32 ∧
    fnI 0x12345678#32 0x9abcdef0#32 0x0fedcba9#32 = 0x688aa88e#32 := by decide
/-- Rows i = 15, 29, 47, 63 of 95 2.2. -/
theorem test_round_constants :
    (gIndex 15#6, rRom 15#6, kRom 15#6) = (15#4, 22, 0x49b40821#32) ∧
    (gIndex 29#6, rRom 29#6, kRom 29#6) = (2#4, 9, 0xfcefa3f8#32) ∧
    (gIndex 47#6, rRom 47#6, kRom 47#6) = (2#4, 23, 0xc4ac5665#32) ∧
    (gIndex 63#6, rRom 63#6, kRom 63#6) = (9#4, 21, 0xeb86d391#32) := by decide
theorem test_block_counts :
    nblk 55#64 = 1 ∧ nblk 56#64 = 2 ∧ nblk 119#64 = 2 ∧ nblk 120#64 = 3 ∧
    nblk 18446744073709551615#64 = 288230376151711745 := by decide
theorem test_length_field :
    lenBits 3#64 = 0x18#64 ∧ lenBits 2305843009213693951#64 = 0xfffffffffffffff8#64 ∧
    lenBits 2305843009213693952#64 = 0#64 := by decide
theorem test_bswap32 : bswap32 0x12345678#32 = 0x78563412#32 ∧ bswap32 0x000000ff#32 = 0xff000000#32 := by decide
/-- The digest of "abc" as the host renders it (95 section 1; R193). -/
theorem test_hex_string : hexString abcDone.acc =
    ['9', '0', '0', '1', '5', '0', '9', '8', '3', 'c', 'd', '2', '4', 'f', 'b', '0',
     'd', '6', '9', '6', '3', 'f', '7', 'd', '2', '8', 'e', '1', '7', 'f', '7', '2'] := by decide
/-- The host's HASH 0x100, 3 as host operation words (95 P1, lines 1 to 4, 6). -/
theorem test_hash_words : expandPseudo (.hash 0x100#32 3#64) =
    [0x1200000100#37, 0x1300000003#37, 0x1400000000#37, 0x1000000001#37, 0x0100000000#37] := by decide

/-! ### Witnesses: each statement's hypotheses are met, at the edges of their ranges -/

/-- One raced byte at 0x100, the memory holding "abc". -/
def raced : State := { abcLoad with raced := [(0x100, 0x7a#8)] }

/-- A LOAD whose memory does not answer. -/
def waiting : State := { abcLoad with memAck := false }

/-- A LOAD of which the first byte has been read, a byte that its address has lost since. -/
def partlyRead : State := { raced with fetched := [0x7a#8], reads := [0x100] }

/-- A LOAD that has read its three bytes. -/
def allRead : State := { waiting with fetched := [0x61#8, 0x62#8, 0x63#8], reads := [0x100, 0x101, 0x102] }

/-- The reset pin held. -/
def held : State := { State.reset with rst := true }

/-- After round 0 of the empty message's block. -/
def afterRoundZero : State :=
  emptyRound 1#6 (roundsOn (emptyRound 0#6 iv).m iv 1)

/-- The empty message's block with all its rounds done. -/
def emptyRounded : State :=
  { emptyRound 63#6 (roundsOn (emptyRound 0#6 iv).m iv roundsPerBlock) with fsm := .finish }

theorem test_witness_DecodeOfEncodeIsTheInstruction :
    (Instr.cmdReserved01xx 0xfffffff#28 4#4).wf = true ∧ (Instr.cmdReserved1xxx 0#28 15#4).wf = true ∧
    (Instr.rdRsvd 7#4 0xffffffff#32).wf = true ∧ (Instr.wrDigest 15#4 1#32).wf = true ∧
    (Instr.roundI 15#4).wf = true ∧ Instr.seqFinish.wf = true := by decide

theorem test_witness_EncodeOfDecodeIsTheWord :
    decode ⟨.how, 0x1fffffffff⟩ = .ok (.wrDigest 15#4 0xffffffff#32) ∧
    decode ⟨.ridx, 63⟩ = .ok (.roundI 15#4) ∧ decode ⟨.fsm, 1⟩ = .ok .seqLoad := ⟨rfl, rfl, rfl⟩

theorem test_witness_EveryWordSelectsExactlyItsRow :
    (0x1fffffffff < 2 ^ fmtWidth .how ∧ ¬ (Fmt.how = .fsm ∧ 0x1fffffffff = 0)) ∧
    (0 < 2 ^ fmtWidth .ridx ∧ ¬ (Fmt.ridx = .fsm ∧ 0 = 0)) ∧
    (3 < 2 ^ fmtWidth .fsm ∧ ¬ (Fmt.fsm = .fsm ∧ 3 = 0)) := by decide

theorem test_witness_StepRunsTheDecodedAccess :
    ∃ s : State, s.inputs = .access 0x1000000001#37 :: [.turn] ∧ s.rst = false :=
  ⟨{ State.reset with inputs := [.access 0x1000000001#37, .turn] }, rfl, rfl⟩

theorem test_witness_StepRunsTheEnabledSequencerStep :
    (∃ s : State, s.rst = false ∧ s.inputs = .turn :: [.rst true] ∧ s.fsm = .load ∧
      decode ⟨.fsm, (fsmCode s.fsm).toNat⟩ = .ok .seqLoad) ∧
    (∃ s : State, s.rst = false ∧ s.inputs = [] ∧ s.fsm = .round ∧ s.i = 63#6) ∧
    (∃ s : State, s.rst = false ∧ s.inputs = [] ∧ s.fsm = .idle) :=
  ⟨⟨{ running with inputs := [.turn, .rst true] }, rfl, rfl, rfl, rfl⟩, ⟨emptyRound 63#6 iv, rfl, rfl, rfl, rfl⟩,
    ⟨State.reset, rfl, rfl, rfl⟩⟩

theorem test_witness_AccessesAndStepsIgnoredUnderReset :
    (∃ s : State, s.rst = true ∧ s.inputs = .access 0x1000000001#37 :: []) ∧
    (∃ s : State, s.rst = true ∧ s.inputs = .access 0x0500000000#37 :: []) ∧
    (∃ s : State, s.rst = true ∧ s.inputs = .turn :: []) ∧ (∃ s : State, s.rst = true ∧ s.inputs = .ack :: []) ∧
    (∃ s : State, s.rst = true ∧ s.inputs = []) :=
  ⟨⟨{ held with inputs := [.access 0x1000000001#37] }, rfl, rfl⟩,
    ⟨{ held with inputs := [.access 0x0500000000#37] }, rfl, rfl⟩, ⟨{ held with inputs := [.turn] }, rfl, rfl⟩,
    ⟨{ held with inputs := [.ack] }, rfl, rfl⟩, ⟨held, rfl, rfl⟩⟩

theorem test_witness_EnvironmentEdges :
    (∃ s : State, s.inputs = .rst true :: [] ∧ s.fsm = .load ∧ s.fetched ≠ [] ∧ s.mem = abcLoad.mem) ∧
    (∃ s : State, s.inputs = .rst false :: [] ∧ s.rst = true) ∧
    (∃ s : State, s.inputs = .rst false :: [] ∧ s.rst = false) ∧
    (∃ s : State, s.inputs = .answer false :: [] ∧ s.memAck = true) ∧
    (∃ s : State, s.inputs = .answer true :: [] ∧ s.memAck = false) :=
  ⟨⟨{ partlyRead with inputs := [.rst true] }, rfl, rfl, by decide, rfl⟩,
    ⟨{ held with inputs := [.rst false] }, rfl, rfl⟩, ⟨{ abcLoad with inputs := [.rst false] }, rfl, rfl⟩,
    ⟨{ abcLoad with inputs := [.answer false] }, rfl, rfl⟩, ⟨{ waiting with inputs := [.answer true] }, rfl, rfl⟩⟩

theorem test_witness_HostMemoryWrite :
    (∃ s : State, s.inputs = .memWrite 0xffffffff 0x61#8 :: [] ∧ MemoryLegal s ∧ 0xffffffff < 2 ^ s.memAddrW ∧
      s.fsm = .idle) ∧
    (∃ s : State, s.inputs = .memWrite 0x100 0x00#8 :: [] ∧ MemoryLegal s ∧ 0x100 < 2 ^ s.memAddrW ∧
      s.fsm = .load) ∧
    (∃ s : State, s.inputs = .memWrite 0x100000000 0x61#8 :: [] ∧ MemoryLegal s ∧ 2 ^ s.memAddrW ≤ 0x100000000) :=
  ⟨⟨{ State.reset with inputs := [.memWrite 0xffffffff 0x61#8] }, rfl,
      ⟨by decide, rfl, by decide⟩, by decide, rfl⟩,
    ⟨{ abcLoad with inputs := [.memWrite 0x100 0x00#8] }, rfl, ⟨by decide, rfl, by decide⟩, by decide, rfl⟩,
    ⟨{ State.reset with inputs := [.memWrite 0x100000000 0x61#8] }, rfl, ⟨by decide, rfl, by decide⟩, by decide⟩⟩

theorem test_witness_PlacedWordRunsNext :
    ((Instr.cmdStart 0#28).wf = true ∧ (Instr.cmdStart 0#28).isSeq = false) ∧
    ((Instr.roundI 15#4).wf = true ∧ (Instr.roundI 15#4).isSeq = true) ∧
    (Instr.seqLoad.wf = true ∧ Instr.seqLoad.isSeq = true) := by decide

theorem test_witness_MachineNeverStops :
    (∀ a b l, State.reset.inputs = .memWrite a b :: l → a < 2 ^ State.reset.memAddrW) ∧
    ∃ s : State, s.inputs = .memWrite 0xffffffff 1#8 :: [] ∧
      ∀ a b l, s.inputs = .memWrite a b :: l → a < 2 ^ s.memAddrW := by
  refine ⟨fun a b l h => absurd h (by simp [State.reset]), { State.reset with inputs := [.memWrite 0xffffffff 1#8] }, rfl, ?_⟩
  intro a b l h
  have ha : a = 0xffffffff := by
    injection h with h _
    injection h with h _
    exact h.symm
  subst ha
  decide

theorem test_witness_IgnoredWritesChangeNothing :
    ((6#4).toNat = 6 ∨ (6#4).toNat = 7) ∧ ((7#4).toNat = 6 ∨ (7#4).toNat = 7) ∧
    8 ≤ (8#4).toNat ∧ 8 ≤ (15#4).toNat := by decide

theorem test_witness_idle_and_busy : State.reset.fsm = .idle ∧ running.fsm ≠ .idle ∧ abcDone.fsm = .idle ∧
    emptyFinish.fsm ≠ .idle ∧ { running with err := true }.fsm ≠ .idle := by decide

theorem test_witness_StartBeginsAMessageOrIsRefused : abcDone.fsm = .idle ∧ running.fsm ≠ .idle := by decide

theorem test_witness_ReservedCommandsRaiseErrorTwo :
    (3 ≤ (3#4).toNat ∧ (3#4).toNat = 3) ∧
    (3 ≤ (4#4).toNat ∧ 4 ≤ (4#4).toNat ∧ (4#4).toNat ≤ 7) ∧ (3 ≤ (7#4).toNat ∧ 4 ≤ (7#4).toNat ∧ (7#4).toNat ≤ 7) ∧
    (3 ≤ (8#4).toNat ∧ 8 ≤ (8#4).toNat) ∧ (3 ≤ (15#4).toNat ∧ 8 ≤ (15#4).toNat) := by decide

theorem test_witness_StatusWriteClearsTheError :
    (0x00000004#32).getLsbD 2 = true ∧ (0xfffffffb#32).getLsbD 2 = false := by decide

theorem test_witness_BaseWrite : State.reset.fsm = .idle ∧ emptyFinish.fsm ≠ .idle := by decide

theorem test_witness_LengthWrites : abcDone.fsm = .idle ∧ running.fsm ≠ .idle := by decide

theorem test_witness_OutputsMirrorStatus : 8 ≤ 8 ∧ 8 ≤ 31 ∧ running.busyPin = true ∧ abcDone.donePin = true := by decide

theorem test_witness_ConstantReads :
    ((6#4).toNat = 6 ∨ (6#4).toNat = 7) ∧ ((7#4).toNat = 6 ∨ (7#4).toNat = 7) := by decide

theorem test_witness_RoundFResult :
    ((emptyRound 0#6 iv).fsm = .round ∧ (emptyRound 0#6 iv).i = 0#2 ++ 0#4) ∧
    ((emptyRound 15#6 iv).fsm = .round ∧ (emptyRound 15#6 iv).i = 0#2 ++ 15#4) := by decide

theorem test_witness_RoundGResult :
    ((emptyRound 16#6 iv).fsm = .round ∧ (emptyRound 16#6 iv).i = 1#2 ++ 0#4) ∧
    ((emptyRound 31#6 iv).fsm = .round ∧ (emptyRound 31#6 iv).i = 1#2 ++ 15#4) := by decide

theorem test_witness_RoundHResult :
    ((emptyRound 32#6 iv).fsm = .round ∧ (emptyRound 32#6 iv).i = 2#2 ++ 0#4) ∧
    ((emptyRound 47#6 iv).fsm = .round ∧ (emptyRound 47#6 iv).i = 2#2 ++ 15#4) := by decide

theorem test_witness_RoundIResult :
    ((emptyRound 48#6 iv).fsm = .round ∧ (emptyRound 48#6 iv).i = 3#2 ++ 0#4) ∧
    ((emptyRound 63#6 iv).fsm = .round ∧ (emptyRound 63#6 iv).i = 3#2 ++ 15#4) := by decide

theorem test_witness_GenericRoundIsTheSelectedRound :
    (emptyRound 0#6 iv).fsm = .round ∧ (emptyRound 63#6 iv).fsm = .round := by decide

theorem test_witness_LoadFetchesTheBlock :
    (abcLoad.fsm = .load ∧ abcLoad.raced = [] ∧ abcLoad.memAck = true) ∧
    (allRead.fsm = .load ∧ allRead.raced = [] ∧ allRead.memAck = false ∧
      min 64 (allRead.msgLen.toNat - 64 * allRead.blk.toNat) ≤ allRead.fetched.length) ∧
    (∃ s : State, s.fsm = .load ∧ s.raced = [] ∧ s.memAck = false ∧
      min 64 (s.msgLen.toNat - 64 * s.blk.toNat) ≤ s.fetched.length ∧ s.fetched = []) :=
  ⟨by decide, by decide, { waiting with msgLen := 64#64, blk := 1#64 }, rfl, rfl, rfl, by decide, rfl⟩

theorem test_witness_LoadTakesOnlyHeldBytes :
    partlyRead.fsm = .load ∧ partlyRead.memAck = true ∧
    (4 * 0 + 0 < partlyRead.fetched.length ∧ 64 * partlyRead.blk.toNat + 4 * 0 + 0 < partlyRead.msgLen.toNat) ∧
    (partlyRead.fetched.length ≤ 4 * 0 + 1 ∧ 64 * partlyRead.blk.toNat + 4 * 0 + 2 < partlyRead.msgLen.toNat) ∧
    partlyRead.msgLen.toNat ≤ 64 * partlyRead.blk.toNat + 4 * 0 + 3 ∧ partlyRead.raced ≠ [] ∧
    (allRead.fsm = .load ∧ min 64 (allRead.msgLen.toNat - 64 * allRead.blk.toNat) ≤ allRead.fetched.length) := by
  decide

theorem test_witness_MemoryPort :
    (waiting.memReq = true ∧ waiting.memAck = false) ∧
    (∃ t, partlyRead.memReq = true ∧ (Instr.wrMsgBase 0#32).isSeq = false ∧
      exec (.wrMsgBase 0#32) partlyRead = .next t) ∧
    (∃ t, partlyRead.memReq = true ∧ (Instr.cmdAbort 0#28).isSeq = false ∧
      exec (.cmdAbort 0#28) partlyRead = .next t) ∧
    (∃ s : State, s.memReq = true ∧ s.inputs = .ack :: [] ∧ s.memAck = false) ∧
    (∃ s : State, s.memReq = true ∧ s.inputs = .ack :: [] ∧ s.memAck = true) ∧
    (∃ s : State, s.memReq = false ∧ s.inputs = .ack :: [] ∧ s.fsm = .load) ∧
    (∃ s : State, s.memReq = false ∧ s.inputs = .ack :: [] ∧ s.fsm = .idle) :=
  ⟨by decide, ⟨_, by decide, rfl, rfl⟩, ⟨_, by decide, rfl, rfl⟩,
    ⟨{ waiting with inputs := [.ack] }, by decide, rfl, rfl⟩,
    ⟨{ partlyRead with inputs := [.ack] }, by decide, rfl, rfl⟩,
    ⟨{ allRead with inputs := [.ack] }, by decide, rfl, rfl⟩, ⟨{ abcDone with inputs := [.ack] }, by decide, rfl, rfl⟩⟩

theorem test_witness_FinishAddsTheSnapshot : emptyFinish.fsm = .finish ∧
    { emptyFinish with msgLen := 56#64 }.fsm = .finish := by decide

theorem test_witness_DisabledSequencerStepsAreRefused :
    State.reset.fsm ≠ .load ∧ State.reset.fsm ≠ .round ∧ State.reset.fsm ≠ .finish ∧
    ((emptyRound 17#6 iv).fsm = .round ∧ (emptyRound 17#6 iv).i ≠ 1#2 ++ 0#4) := by decide

theorem test_witness_RotateLeftArithmetic : (1 ≤ 1 ∧ 1 ≤ 31) ∧ (1 ≤ 31 ∧ 31 ≤ 31) ∧ 0 < 32 ∧ 31 < 32 := by decide

theorem test_witness_AluPrimitives : 0 < 32 ∧ 31 < 32 := by decide

theorem test_witness_RoundFunctionsBitByBit : 0 < 32 ∧ 31 < 32 := by decide

theorem test_witness_ByteOrder : 0 < 4 ∧ 3 < 4 := by decide

theorem test_witness_PaddedStreamAndLengthField :
    (54 < (55#64).toNat ∧ 0 < (55#64).toNat) ∧
    ((56#64).toNat < 57 ∧ 57 < 64 * nblk 56#64 - 8) ∧ ((56#64).toNat < 119 ∧ 119 < 64 * nblk 56#64 - 8) ∧
    7 < 8 := by decide

theorem test_witness_OnlyTheseWriteTheAccumulator :
    (∃ t, exec (.cmdStart 0#28) abcDone = .next t ∧ t.acc ≠ abcDone.acc) ∧
    (∃ t, exec (.cmdAbort 0#28) abcDone = .next t ∧ t.acc ≠ abcDone.acc) ∧
    (∃ t, exec .seqRound (emptyRound 0#6 iv) = .next t ∧ t.acc ≠ (emptyRound 0#6 iv).acc) ∧
    (∃ t, exec .seqFinish emptyFinish = .next t ∧ t.acc ≠ emptyFinish.acc) :=
  ⟨⟨_, rfl, by decide⟩, ⟨_, rfl, by decide⟩, ⟨_, rfl, by decide⟩, ⟨_, rfl, by decide⟩⟩

theorem test_witness_InstructionFrame :
    (∃ t, exec .seqLoad abcLoad = .next t) ∧ (∃ t, exec (.rdDigestA 0#32) abcDone = .next t) ∧
    (∃ t, exec (.cmdStart 0#28) abcDone = .next t) ∧ (∃ t, exec .seqFinish emptyFinish = .next t) ∧
    Instr.seqFinish ≠ .seqLoad ∧ (Instr.rdDigestA 0#32).isRead = true ∧ Instr.seqLoad.isSeq = true :=
  ⟨⟨_, rfl⟩, ⟨_, rfl⟩, ⟨_, rfl⟩, ⟨_, rfl⟩, by decide, rfl, rfl⟩

theorem test_witness_ErrorsArePreciseWithTheirCause :
    (∃ t, exec (.cmdStart 0#28) running = .next t ∧ running.err = false ∧ t.err = true) ∧
    (∃ t, exec (.cmdReserved1xxx 0#28 15#4) running = .next t ∧ running.err = false ∧ t.err = true) ∧
    (∃ t, exec (.wrMsgLenHi 0#32) running = .next t ∧ running.err = false ∧ t.err = true) :=
  ⟨⟨_, rfl, rfl, rfl⟩, ⟨_, rfl, rfl, rfl⟩, ⟨_, rfl, rfl, rfl⟩⟩

theorem test_witness_ErrorIsStickyUntilCleared :
    (∃ t, exec (.cmdReserved0011 0#28) errTwo = .next t ∧ errTwo.err = true ∧ t.err = true) ∧
    (∃ t, exec (.wrStatus 4#32) errTwo = .next t ∧ errTwo.err = true ∧ t.err = false) :=
  ⟨⟨_, rfl, rfl, rfl⟩, ⟨_, rfl, rfl, rfl⟩⟩

theorem test_witness_OnlyTheseWriteDone :
    (∃ t, exec .seqFinish emptyFinish = .next t ∧ emptyFinish.done = false ∧ t.done = true) ∧
    (∃ t, exec (.cmdStart 0#28) abcDone = .next t ∧ abcDone.done = true ∧ t.done = false) ∧
    (∃ t, exec (.cmdAbort 0#28) abcDone = .next t ∧ abcDone.done = true ∧ t.done = false) :=
  ⟨⟨_, rfl, rfl, by decide⟩, ⟨_, rfl, rfl, rfl⟩, ⟨_, rfl, rfl, rfl⟩⟩

theorem test_witness_ConfigurationStableWhileBusy :
    ∃ s t : State, step s = .next t ∧ s.fsm ≠ .idle ∧ t.fsm ≠ .idle ∧ s.inputs = .access 0x1200000200#37 :: [] :=
  ⟨{ running with inputs := [.access 0x1200000200#37] }, _, rfl, by decide, by decide, rfl⟩

theorem test_witness_UnspecifiedRegistersNeverMatter :
    (∃ t, (State.reset.fsm = .idle ∨ State.reset.fsm = .load) ∧ step State.reset = .next t) ∧
    (∃ t, (abcLoad.fsm = .idle ∨ abcLoad.fsm = .load) ∧ step abcLoad = .next t) :=
  ⟨⟨_, .inl rfl, rfl⟩, ⟨_, .inr rfl, rfl⟩⟩

theorem test_witness_StartInTheCycleOfTheLastFinish :
    ∃ s : State, s.inputs = .access (howBits 1#1 0#4 (0#28 ++ 1#4)) :: .turn :: [] ∧ s.rst = false ∧
      s.fsm = .finish ∧ s.blk.toNat + 1 = nblk s.msgLen ∧ s.err = false :=
  ⟨{ emptyFinish with inputs := [.access (howBits 1#1 0#4 (0#28 ++ 1#4)), .turn] }, rfl, rfl, rfl, by decide, rfl⟩

theorem test_witness_StepKeepsStatusLegal :
    (∃ s t : State, StatusLegal s ∧ step s = .next t ∧ s.fsm = .load) ∧
    (∃ s t : State, StatusLegal s ∧ step s = .next t ∧ s.err = true) :=
  ⟨⟨running, _, ⟨by decide, by decide, by decide⟩, rfl, rfl⟩,
    ⟨errTwo, _, ⟨by decide, by decide, by decide⟩, rfl, rfl⟩⟩

theorem test_witness_StepKeepsMemoryLegal :
    ∃ s t : State, MemoryLegal s ∧ step s = .next t ∧ s.inputs = .memWrite 0xffffffff 0x61#8 :: [] :=
  ⟨{ abcLoad with inputs := [.memWrite 0xffffffff 0x61#8] }, _, ⟨by decide, rfl, by decide⟩, rfl, rfl⟩

theorem test_witness_StepKeepsRoundsDone :
    ∃ s t : State, RoundsDone s ∧ step s = .next t ∧ s.fsm = .round ∧ s.i = 1#6 :=
  ⟨afterRoundZero, _, ⟨fun _ => rfl, by decide⟩, rfl, rfl, rfl⟩

theorem test_witness_StepKeepsReadsInOrder :
    (∃ s t : State, BlockInMessage s ∧ FetchedInBlock s ∧ ReadsInOrder s ∧ step s = .next t ∧ s.fsm = .load ∧
      s.inputs = .ack :: []) ∧
    (∃ s t : State, BlockInMessage s ∧ FetchedInBlock s ∧ ReadsInOrder s ∧ step s = .next t ∧ s = partlyRead) :=
  ⟨⟨{ abcLoad with inputs := [.ack] }, _, fun _ => by decide, ⟨by decide, by decide⟩, fun _ => by decide, rfl, rfl, rfl⟩,
    ⟨partlyRead, _, fun _ => by decide, ⟨by decide, by decide⟩, fun _ => by decide, rfl, rfl⟩⟩

theorem test_witness_padding_of_the_empty_message : ∀ (k : Fin 16) (n : Fin 4),
    byteOf (emptyRound 0#6 iv).m[k.val] n.val =
      padByte (emptyRound 0#6 iv).msgLen (64 * (emptyRound 0#6 iv).blk.toNat + 4 * k.val + n.val) := by decide

/-- The first byte of partlyRead was held at its address before. -/
theorem test_witness_held_byte : HeldBytes partlyRead := by
  have hidle : ¬ (partlyRead.fsm = .round ∨ partlyRead.fsm = .finish) := by decide
  have hbyte : ∀ q : Fin 1, (partlyRead.msgAddr (64 * partlyRead.blk.toNat + q.val), 0x7a#8) ∈ partlyRead.raced := by
    decide
  refine ⟨fun _ q hq => ?_, fun h => absurd h hidle⟩
  have hq0 : q = 0 := Nat.lt_one_iff.1 hq
  subst hq0
  exact .inr (hbyte 0)

theorem test_witness_StepKeepsTheBlockAndTheChain :
    (∃ s t : State, step s = .next t ∧ PaddingInBlock s ∧ s.fsm = .round) ∧
    (∃ s t : State, step s = .next t ∧ FetchedInBlock s ∧ HeldBytes s ∧ s = partlyRead) ∧
    (∃ s t : State, step s = .next t ∧ BlockInMessage s ∧ HeldBytes s ∧ RoundsDone s ∧ ChainInOrder s ∧ Unraced s ∧
      s.done = false ∧ t.done = true) ∧
    (∃ s t : State, step s = .next t ∧ StatusLegal s ∧ s.done = true ∧ t.done = true) := by
  refine ⟨⟨emptyRound 0#6 iv, _, rfl, fun _ k n hk hn _ => test_witness_padding_of_the_empty_message ⟨k, hk⟩ ⟨n, hn⟩, rfl⟩,
    ⟨partlyRead, _, rfl, ⟨by decide, by decide⟩, test_witness_held_byte, rfl⟩,
    ⟨emptyRounded, _, rfl, fun _ => by decide, ⟨fun h => absurd h (by decide), fun _ k n _ _ h => absurd h (Nat.not_lt_zero _)⟩,
      ⟨by decide, fun _ => ⟨rfl, rfl⟩⟩, fun _ => ⟨by decide, fun _ => ⟨rfl, by decide⟩⟩,
      fun c hc => absurd hc (List.not_mem_nil), rfl, by decide⟩,
    ⟨abcDone, _, rfl, ⟨by decide, by decide, by decide⟩, rfl, rfl⟩⟩

theorem test_witness_StepKeepsResetHeld :
    ∃ s t : State, ResetHeld s ∧ step s = .next t ∧ s.rst = true ∧ s.inputs = .access 0x1000000001#37 :: [] :=
  ⟨{ held with inputs := [.access 0x1000000001#37] }, _, fun _ => by decide, rfl, rfl, rfl⟩

theorem test_witness_BlockTakesSixtySixSteps :
    (abcLoad.inputs = [] ∧ abcLoad.rst = false ∧ abcLoad.memAck = true ∧ abcLoad.fsm = .load) ∧
    (partlyRead.inputs = [] ∧ partlyRead.rst = false ∧ partlyRead.memAck = true ∧ partlyRead.fsm = .load) := by decide

theorem test_witness_MessageCompletesWithItsDigest :
    abcLoad.inputs = [] ∧ abcLoad.rst = false ∧ abcLoad.memAck = true ∧ abcLoad.fsm = .load ∧
    abcLoad.blk = 0#64 ∧ abcLoad.acc = iv ∧ abcLoad.fetched = [] ∧ abcLoad.raced = [] ∧ abcLoad.reads = [] ∧
    { abcLoad with draws := 1 } = beginMessage { abcLoad with fsm := .idle } := by decide

end Sys2Proof.Tests
end

/-! PROOFS of the family 00_scope.md. What an access, a turn and a step can do to the message memory and to
MEM_ADDR_W, and the invariant of the memory that follows. -/

namespace Sys2Proof.Machine

variable {s t : State}

@[simp] theorem ignoreAccess_mem (w : Bool) (s : State) : (ignoreAccess w s).mem = s.mem := by
  cases w <;> rfl

@[simp] theorem ignoreAccess_memAddrW (w : Bool) (s : State) : (ignoreAccess w s).memAddrW = s.memAddrW := by
  cases w <;> rfl

@[simp] theorem setRst_mem (level : Bool) (s : State) : (setRst level s).mem = s.mem := by
  cases level <;> rfl

@[simp] theorem setRst_memAddrW (level : Bool) (s : State) : (setRst level s).memAddrW = s.memAddrW := by
  cases level <;> rfl

/-- A register access leaves the message memory and its address width as they were. -/
theorem AccessEffect.keeps_mem (h : AccessEffect s t) : t.mem = s.mem ∧ t.memAddrW = s.memAddrW := by
  cases h with
  | nothing | base | length => exact ⟨rfl, rfl⟩
  | answer v => exact ⟨respond_mem s v, respond_memAddrW s v⟩
  | clear => exact ⟨clearErr_mem s, clearErr_memAddrW s⟩
  | abort => exact ⟨abortMessage_mem s, abortMessage_memAddrW s⟩
  | reserved | startRefused | writeRefused => exact ⟨raiseErr_mem s _, raiseErr_memAddrW s _⟩
  | start => exact ⟨beginMessage_mem s, beginMessage_memAddrW s⟩

/-- A turn of the sequencer leaves the message memory and its address width as they were. -/
theorem TurnEffect.keeps_mem (h : TurnEffect s t) : t.mem = s.mem ∧ t.memAddrW = s.memAddrW := by
  cases h with
  | waits | quiet => exact ⟨rfl, rfl⟩
  | load => exact ⟨loadBlock_mem s, loadBlock_memAddrW s⟩
  | round => exact ⟨roundStep_mem s _ _, roundStep_memAddrW s _ _⟩
  | finish => exact ⟨finishBlock_mem s, finishBlock_memAddrW s⟩

/-- The message memory after a step: only a host write inside the address space changes it (R52). -/
theorem StepEffect.mem_cases (h : StepEffect s t) :
    t.mem = s.mem ∨ ∃ a b, a < 2 ^ s.memAddrW ∧ t.mem = s.mem.write a b := by
  cases h with
  | access _ h => exact .inl h.keeps_mem.1
  | turn h => exact .inl h.keeps_mem.1
  | ignored _ w => exact .inl (ignoreAccess_mem w s.rest)
  | memWrite a b ha => exact .inr ⟨a, b, ha, rfl⟩
  | rst level => exact .inl (setRst_mem level s.rest)
  | answer | port | portQuiet => exact .inl rfl

/-- MEM_ADDR_W is configuration: no step changes it (R10). -/
theorem StepEffect.memAddrW_eq (h : StepEffect s t) : t.memAddrW = s.memAddrW := by
  cases h with
  | access _ h => exact h.keeps_mem.2
  | turn h => exact h.keeps_mem.2
  | ignored _ w => exact ignoreAccess_memAddrW w s.rest
  | rst level => exact setRst_memAddrW level s.rest
  | memWrite | answer | port | portQuiet => rfl

/-- A write inside an address space keeps every cell inside it. -/
theorem Memory.write_in_range {m : Memory} {n a : Nat} (b : Byte) (hm : ∀ c ∈ m, c.1 < n) (ha : a < n) :
    ∀ c ∈ m.write a b, c.1 < n := by
  intro c hc
  rcases Memory.mem_write hc with rfl | hc
  · exact ha
  · exact hm c hc

end Sys2Proof.Machine

namespace Sys2Proof.Proofs

open Sys2Proof.Machine Sys2Proof.Safety

/-- Settles O54: the width stays, and the memory is unchanged or written inside its address space, which keeps
the canonical form and the range. -/
theorem stepKeepsMemoryLegal : Obligations.StepKeepsMemoryLegal := by
  intro s t hs hstep
  obtain ⟨hwidth, hwf, hrange⟩ := hs
  have heff := step_effect hstep
  unfold MemoryLegal
  rw [heff.memAddrW_eq]
  obtain hmem | ⟨a, b, ha, hmem⟩ := heff.mem_cases <;> rw [hmem]
  · exact ⟨hwidth, hwf, hrange⟩
  · exact ⟨hwidth, Memory.write_wf a b hwf, Memory.write_in_range b hrange ha⟩

end Sys2Proof.Proofs

/-! PROOFS of the family 10_state.md, the invariants. What an access, a turn and a step do to STATUS, and to the
block counter and the memory port's trace. -/

namespace Sys2Proof.Machine

open Sys2Proof.Safety

variable {s t : State}

/-! ### STATUS (R34, R251) -/

/-- A step that leaves the error alone keeps STATUS legal if DONE is 0 after it or the core is in IDLE. -/
theorem statusLegal_of_same_error (hs : StatusLegal s) (herr : t.err = s.err) (hcode : t.errCode = s.errCode)
    (hdone : t.done = false ∨ t.fsm = .idle) : StatusLegal t := by
  obtain ⟨hzero, hrange, -⟩ := hs
  refine ⟨by rwa [herr, hcode], by rwa [herr, hcode], fun hb => ?_⟩
  rcases hdone with hd | hf
  · exact hd
  · exact absurd hf ((busy_iff t).1 hb)

/-- Raising one of the errors 1 to 3 keeps STATUS legal. -/
theorem statusLegal_raiseErr {code : BitVec 4} (hs : StatusLegal s) (hc : 1 ≤ code.toNat ∧ code.toNat ≤ 3) :
    StatusLegal (raiseErr code s) := by
  cases herr : s.err with
  | true => rwa [raiseErr_of_err code herr]
  | false =>
    rw [raiseErr_of_clear code herr]
    obtain ⟨-, -, hbusy⟩ := hs
    exact ⟨nofun, fun _ => hc, hbusy⟩

/-- Clearing the error keeps STATUS legal. -/
theorem statusLegal_clearErr (hs : StatusLegal s) : StatusLegal (clearErr s) := by
  obtain ⟨-, -, hbusy⟩ := hs
  exact ⟨fun _ => rfl, nofun, hbusy⟩

/-- A reset edge and the release of the pin keep STATUS legal. -/
theorem statusLegal_setRst (level : Bool) (hs : StatusLegal s) : StatusLegal (setRst level s) := by
  cases level with
  | false => exact hs
  | true => exact ⟨fun _ => rfl, nofun, fun _ => rfl⟩

theorem AccessEffect.keeps_statusLegal (h : AccessEffect s t) (hs : StatusLegal s) : StatusLegal t := by
  cases h with
  | nothing | answer | base | length => exact hs
  | clear => exact statusLegal_clearErr hs
  | abort => exact statusLegal_of_same_error hs rfl rfl (.inr rfl)
  | reserved | startRefused | writeRefused => exact statusLegal_raiseErr hs (by decide)
  | start => exact statusLegal_of_same_error hs rfl rfl (.inl rfl)

theorem TurnEffect.keeps_statusLegal (h : TurnEffect s t) (hs : StatusLegal s) : StatusLegal t := by
  have ⟨_, _, hbusy⟩ := hs
  have hdone : s.fsm ≠ .idle → s.done = false := fun hf => hbusy ((busy_iff s).2 hf)
  cases h with
  | waits | quiet => exact hs
  | load hf =>
    exact statusLegal_of_same_error hs (loadBlock_err s) (loadBlock_errCode s)
      (.inl ((loadBlock_done s).trans (hdone (by simp [hf]))))
  | round hf =>
    exact statusLegal_of_same_error hs (roundStep_err s _ _) (roundStep_errCode s _ _)
      (.inl ((roundStep_done s _ _).trans (hdone (by simp [hf]))))
  | finish hf =>
    refine statusLegal_of_same_error hs rfl rfl ?_
    rw [finishBlock_done, finishBlock_fsm]
    cases s.lastBlock
    · exact .inl (hdone (by simp [hf]))
    · exact .inr rfl

/-! ### The block counter and the port's trace (R26, R53) -/

/-- The three invariants of the port together: they are proved by one induction, since FINISH needs that blk does not
wrap and LOAD that it reads on where the blocks before it ended. -/
def PortInOrder (s : State) : Prop := BlockInMessage s ∧ FetchedInBlock s ∧ ReadsInOrder s

/-- In IDLE with no read in progress there is nothing to keep in order. -/
theorem portInOrder_of_idle (hf : t.fsm = .idle) (hq : t.fetched = []) : PortInOrder t := by
  have hb : ¬ t.busy = true := fun hb => (busy_iff t).1 hb hf
  exact ⟨fun h => absurd h hb, ⟨fun _ => hq, by simp [hq]⟩, fun h => absurd h hb⟩

/-- A register write in IDLE leaves no read in progress. -/
theorem PortInOrder.of_idle (hs : PortInOrder s) (hb : s.busy = false) (hf : t.fsm = s.fsm)
    (hq : t.fetched = s.fetched) : PortInOrder t := by
  have hidle := (not_busy_iff s).1 hb
  obtain ⟨-, ⟨hnone, -⟩, -⟩ := hs
  exact portInOrder_of_idle (hf.trans hidle) (hq.trans (hnone (by simp [hidle])))

theorem nblk_pos (len : DWord) : 0 < nblk len := Nat.succ_pos _

/-- An error says nothing about the port. -/
theorem portInOrder_raiseErr (code : BitVec 4) (hs : PortInOrder s) : PortInOrder (raiseErr code s) := by
  cases herr : s.err with
  | true => rwa [raiseErr_of_err code herr]
  | false => rwa [raiseErr_of_clear code herr]

/-- An accepted START begins at block 0 with nothing read. -/
theorem portInOrder_beginMessage (s : State) : PortInOrder (beginMessage s) :=
  ⟨fun _ => nblk_pos s.msgLen, ⟨fun _ => rfl, Nat.zero_le _⟩, fun _ => by simp [blocksLoaded]⟩

theorem AccessEffect.keeps_portInOrder (h : AccessEffect s t) (hs : PortInOrder s) : PortInOrder t := by
  cases h with
  | nothing | answer | clear => exact hs
  | abort => exact portInOrder_of_idle rfl rfl
  | reserved | startRefused | writeRefused => exact portInOrder_raiseErr _ hs
  | start => exact portInOrder_beginMessage s
  | base hb | length hb => exact hs.of_idle hb rfl rfl

/-- A LOAD reads on to the end of its block. -/
theorem portInOrder_loadBlock (hs : PortInOrder s) (hf : s.fsm = .load) : PortInOrder (loadBlock s) := by
  obtain ⟨hblock, ⟨-, hfetched⟩, hreads⟩ := hs
  have hb : s.busy = true := (busy_iff s).2 (by simp [hf])
  refine ⟨fun _ => by simpa using hblock hb, ⟨fun _ => loadBlock_fetched s, by simp⟩, fun _ => ?_⟩
  have hloaded : blocksLoaded s = s.blk.toNat := by simp [blocksLoaded, hf]
  have hloaded' : blocksLoaded (loadBlock s) = s.blk.toNat + 1 := by simp [blocksLoaded]
  have hrange := range_append_portLeft s.msgLen s.blk.toNat s.fetched.length hfetched
  rw [hloaded', loadBlock_reads, hreads hb, hloaded]
  simp only [loadBlock_msgLen, loadBlock_msgBase, loadBlock_memAddrW, loadBlock_fetched, List.length_nil, Nat.add_zero]
  rw [← hrange, List.map_append]
  rfl

/-- A ROUND step stays in its block and reads nothing. -/
theorem portInOrder_roundStep (hs : PortInOrder s) (hf : s.fsm = .round) (fn : Word → Word → Word → Word)
    (g : BitVec 4) : PortInOrder (roundStep fn g s) := by
  obtain ⟨hblock, ⟨hnone, hfetched⟩, hreads⟩ := hs
  have hb : s.busy = true := (busy_iff s).2 (by simp [hf])
  have hloaded : blocksLoaded (roundStep fn g s) = blocksLoaded s := by
    by_cases hi : s.i = 63#6 <;> simp [blocksLoaded, hf, hi]
  refine ⟨fun _ => ?_, ⟨fun _ => ?_, ?_⟩, fun _ => ?_⟩
  · simpa using hblock hb
  · simpa using hnone (by simp [hf])
  · simpa using hfetched
  · rw [hloaded]
    simpa using hreads hb

/-- FINISH goes on to the next block of the message or to IDLE; blk does not wrap below NBLK. -/
theorem portInOrder_finishBlock (hs : PortInOrder s) (hf : s.fsm = .finish) : PortInOrder (finishBlock s) := by
  obtain ⟨hblock, ⟨hnone, -⟩, hreads⟩ := hs
  have hfetched : s.fetched = [] := hnone (by simp [hf])
  have hb : s.busy = true := (busy_iff s).2 (by simp [hf])
  have hlt : s.blk.toNat < nblk s.msgLen := hblock hb
  cases hlast : s.lastBlock with
  | true => exact portInOrder_of_idle (by simp [hlast]) hfetched
  | false =>
    have hne : s.blk.toNat + 1 ≠ nblk s.msgLen := by simpa [State.lastBlock] using hlast
    have hblk : (s.blk + 1#64).toNat = s.blk.toNat + 1 := by
      have hnblk : nblk s.msgLen = (s.msgLen.toNat + 8) / 64 + 1 := rfl
      have hlen := s.msgLen.isLt
      rw [BitVec.toNat_add, BitVec.toNat_ofNat, Nat.mod_eq_of_lt (by omega)]
    have hloaded : blocksLoaded (finishBlock s) = blocksLoaded s := by
      simp [blocksLoaded, hf, hlast, hblk]
    refine ⟨fun _ => ?_, ⟨fun _ => hfetched, by simp [hfetched]⟩, fun _ => ?_⟩
    · rw [finishBlock_blk, finishBlock_msgLen, hblk]
      omega
    · rw [hloaded]
      exact hreads hb

theorem TurnEffect.keeps_portInOrder (h : TurnEffect s t) (hs : PortInOrder s) : PortInOrder t := by
  cases h with
  | waits | quiet => exact hs
  | load hf => exact portInOrder_loadBlock hs hf
  | round hf => exact portInOrder_roundStep hs hf _ _
  | finish hf => exact portInOrder_finishBlock hs hf

/-- A cycle of the port with a request reads the next byte of the block. -/
theorem portInOrder_readByte (hs : PortInOrder s) (hq : s.memReq = true) : PortInOrder (readByte s) := by
  obtain ⟨hblock, -, hreads⟩ := hs
  obtain ⟨hf, hwants⟩ : s.fsm = .load ∧ s.fetched.length < blockBytes s.msgLen s.blk.toNat := by
    simp only [State.memReq, State.portWants, Bool.and_eq_true, decide_eq_true_eq] at hq
    obtain ⟨⟨-, hload⟩, hleft⟩ := hq
    exact ⟨hload, hleft⟩
  have hb : s.busy = true := (busy_iff s).2 (by simp [hf])
  have hpos : min (64 * s.blk.toNat) s.msgLen.toNat + s.fetched.length = s.portPos := by
    unfold blockBytes at hwants
    unfold State.portPos
    omega
  have hread : s.reads = (List.range s.portPos).map s.msgAddr := by
    have h := hreads hb
    simp only [blocksLoaded, hf] at h
    rwa [hpos] at h
  refine ⟨hblock, ⟨fun h => absurd hf h, by simpa using hwants⟩, fun _ => ?_⟩
  have hloaded : blocksLoaded (readByte s) = s.blk.toNat := by simp [blocksLoaded, hf]
  rw [hloaded, readByte_msgLen, readByte_fetched, List.length_append, List.length_singleton, ← Nat.add_assoc, hpos,
    List.range_succ, List.map_append, readByte_reads, hread]
  rfl

end Sys2Proof.Machine

namespace Sys2Proof.Proofs

open Sys2Proof.Machine Sys2Proof.Safety

/-- Settles O53: an access and a turn keep STATUS legal, and the other moves leave it alone or reset it. -/
theorem stepKeepsStatusLegal : Obligations.StepKeepsStatusLegal := by
  intro s t hs hstep
  have hrest : StatusLegal s.rest := hs
  cases step_effect hstep with
  | access _ h => exact h.keeps_statusLegal hrest
  | turn h => exact h.keeps_statusLegal hrest
  | ignored _ w => cases w <;> exact hrest
  | rst level => exact statusLegal_setRst level hrest
  | memWrite | answer | port | portQuiet => exact hrest

/-- Settles O56: the three invariants together, move by move; only START, LOAD, FINISH, ABORT, a reset edge and a cycle
of the port touch what they speak of. -/
theorem stepKeepsReadsInOrder : Obligations.StepKeepsReadsInOrder := by
  intro s t hblock hfetched hreads hstep
  have hrest : PortInOrder s.rest := ⟨hblock, hfetched, hreads⟩
  change PortInOrder t
  cases step_effect hstep with
  | access _ h => exact h.keeps_portInOrder hrest
  | turn h => exact h.keeps_portInOrder hrest
  | ignored _ w => cases w <;> exact hrest
  | rst level =>
    cases level with
    | false => exact hrest
    | true => exact portInOrder_of_idle rfl rfl
  | port hq => exact portInOrder_readByte hrest hq
  | memWrite | answer | portQuiet => exact hrest

end Sys2Proof.Proofs

/-! PROOFS of the family 10_state.md, who writes what. Everything an instruction can do, said once with the
instruction that does it, and the frames that follow. -/

namespace Sys2Proof

/-- The commands 3 to 15 (R215). -/
def Instr.IsReserved (i : Instr) : Prop :=
  ∃ hi, i = .cmdReserved0011 hi ∨ ∃ c, i = .cmdReserved01xx hi c ∨ i = .cmdReserved1xxx hi c

/-- The writes to MSG_BASE and to the halves of MSG_LEN (R217 to R219). -/
def Instr.IsConfigWrite (i : Instr) : Prop :=
  ∃ d, i = .wrMsgBase d ∨ i = .wrMsgLenLo d ∨ i = .wrMsgLenHi d

/-- The ROUND step, generic or of a kind (R170 to R174). -/
def Instr.IsRound (i : Instr) : Prop :=
  i = .seqRound ∨ ∃ p, i = .roundF p ∨ i = .roundG p ∨ i = .roundH p ∨ i = .roundI p

variable {i : Instr}

theorem Instr.IsReserved.not_seq_not_read (h : i.IsReserved) : i.isSeq = false ∧ i.isRead = false := by
  obtain ⟨hi, rfl | ⟨c, rfl | rfl⟩⟩ := h <;> exact ⟨rfl, rfl⟩

theorem Instr.IsConfigWrite.not_seq_not_read (h : i.IsConfigWrite) : i.isSeq = false ∧ i.isRead = false := by
  obtain ⟨d, rfl | rfl | rfl⟩ := h <;> exact ⟨rfl, rfl⟩

theorem Instr.IsRound.seq_not_read (h : i.IsRound) : i.isSeq = true ∧ i.isRead = false := by
  obtain rfl | ⟨p, rfl | rfl | rfl | rfl⟩ := h <;> exact ⟨rfl, rfl⟩

theorem Instr.not_seq_of_read (h : i.isRead = true) : i.isSeq = false := by
  cases i with
  | roundF | roundG | roundH | roundI | seqLoad | seqRound | seqFinish => cases h
  | _ => rfl

end Sys2Proof

namespace Sys2Proof.Machine

variable {s t : State} {i : Instr}

/-- Everything an instruction can do to the state s, with the instruction that does it and when. -/
inductive InstrEffect (s : State) : Instr → State → Prop
  | nothing {i : Instr} (hseq : i.isSeq = false) (hread : i.isRead = false) : InstrEffect s i s
  | answer {i : Instr} (hread : i.isRead = true) (v : Word) : InstrEffect s i (respond v s)
  | clear {d : Word} (hd : statusClears d = true) : InstrEffect s (.wrStatus d) (clearErr s)
  | start {hi : BitVec 28} (hf : s.fsm = .idle) : InstrEffect s (.cmdStart hi) (beginMessage s)
  | startRefused {hi : BitVec 28} (hf : s.fsm ≠ .idle) :
      InstrEffect s (.cmdStart hi) (raiseErr errStartWhileBusy s)
  | abort {hi : BitVec 28} : InstrEffect s (.cmdAbort hi) (abortMessage s)
  | reserved {i : Instr} (hi : i.IsReserved) : InstrEffect s i (raiseErr errReservedCmd s)
  | base {d : Word} (hf : s.fsm = .idle) : InstrEffect s (.wrMsgBase d) { s with msgBase := d }
  | length {i : Instr} (hi : i.IsConfigWrite) (hf : s.fsm = .idle) (len : DWord) :
      InstrEffect s i { s with msgLen := len }
  | writeRefused {i : Instr} (hi : i.IsConfigWrite) (hf : s.fsm ≠ .idle) :
      InstrEffect s i (raiseErr errCfgWriteWhileBusy s)
  | loadWaits (hf : s.fsm = .load) (hw : s.loadWaits = true) : InstrEffect s .seqLoad s
  | load (hf : s.fsm = .load) (hw : s.loadWaits = false) : InstrEffect s .seqLoad (loadBlock s)
  | round {i : Instr} (hi : i.IsRound) (hf : s.fsm = .round) (fn : Word → Word → Word → Word) (g : BitVec 4) :
      InstrEffect s i (roundStep fn g s)
  | finish (hf : s.fsm = .finish) : InstrEffect s .seqFinish (finishBlock s)

/-- A configuration write that answers t was refused while BUSY or took effect in IDLE. -/
theorem writeConfig_next {w : State}
    (h : Host.Outcome.next (φ := Fault) (ρ := Refusal) (writeConfig w s) = .next t) :
    (s.fsm ≠ .idle ∧ t = raiseErr errCfgWriteWhileBusy s) ∨ (s.fsm = .idle ∧ t = w) := by
  cases h
  cases hb : s.busy with
  | true => exact .inl ⟨(busy_iff s).1 hb, writeConfig_busy w hb⟩
  | false => exact .inr ⟨(not_busy_iff s).1 hb, writeConfig_idle w hb⟩

/-- A round index is enabled in ROUND only. -/
theorem roundEnabled_fsm {j : BitVec 6} (h : s.roundEnabled j = true) : s.fsm = .round := by
  simp only [State.roundEnabled, Bool.and_eq_true, decide_eq_true_eq] at h
  obtain ⟨hf, -⟩ := h
  exact hf

/-- An instruction does one of the things of InstrEffect. -/
theorem exec_effect (h : exec i s = .next t) : InstrEffect s i t := by
  cases i with
  | cmdNop | wrId | wrRsvd | wrDigest =>
    cases h
    exact .nothing rfl rfl
  | cmdStart hi =>
    simp only [exec, execCmdStart] at h
    cases hb : s.busy <;> rw [hb] at h <;> cases h
    · exact .start ((not_busy_iff s).1 hb)
    · exact .startRefused ((busy_iff s).1 hb)
  | cmdAbort =>
    cases h
    exact .abort
  | cmdReserved0011 hi =>
    cases h
    exact .reserved ⟨hi, .inl rfl⟩
  | cmdReserved01xx hi c =>
    cases h
    exact .reserved ⟨hi, .inr ⟨c, .inl rfl⟩⟩
  | cmdReserved1xxx hi c =>
    cases h
    exact .reserved ⟨hi, .inr ⟨c, .inr rfl⟩⟩
  | wrStatus d =>
    simp only [exec, execWrStatus] at h
    cases hd : statusClears d <;> rw [hd] at h <;> cases h
    · exact .nothing rfl rfl
    · exact .clear hd
  | wrMsgBase d =>
    obtain ⟨hf, rfl⟩ | ⟨hf, rfl⟩ := writeConfig_next h
    · exact .writeRefused ⟨d, .inl rfl⟩ hf
    · exact .base hf
  | wrMsgLenLo d =>
    obtain ⟨hf, rfl⟩ | ⟨hf, rfl⟩ := writeConfig_next h
    · exact .writeRefused ⟨d, .inr (.inl rfl)⟩ hf
    · exact .length ⟨d, .inr (.inl rfl)⟩ hf _
  | wrMsgLenHi d =>
    obtain ⟨hf, rfl⟩ | ⟨hf, rfl⟩ := writeConfig_next h
    · exact .writeRefused ⟨d, .inr (.inr rfl)⟩ hf
    · exact .length ⟨d, .inr (.inr rfl)⟩ hf _
  | rdCtrl | rdStatus | rdMsgBase | rdMsgLenLo | rdMsgLenHi | rdId | rdRsvd | rdDigestA | rdDigestB
  | rdDigestC | rdDigestD | rdDigestSwapA | rdDigestSwapB | rdDigestSwapC | rdDigestSwapD =>
    cases h
    exact .answer rfl _
  | roundF p =>
    obtain ⟨he, rfl⟩ := whenEnabled_next h
    exact .round (.inr ⟨p, .inl rfl⟩) (roundEnabled_fsm he) _ _
  | roundG p =>
    obtain ⟨he, rfl⟩ := whenEnabled_next h
    exact .round (.inr ⟨p, .inr (.inl rfl)⟩) (roundEnabled_fsm he) _ _
  | roundH p =>
    obtain ⟨he, rfl⟩ := whenEnabled_next h
    exact .round (.inr ⟨p, .inr (.inr (.inl rfl))⟩) (roundEnabled_fsm he) _ _
  | roundI p =>
    obtain ⟨he, rfl⟩ := whenEnabled_next h
    exact .round (.inr ⟨p, .inr (.inr (.inr rfl))⟩) (roundEnabled_fsm he) _ _
  | seqLoad =>
    obtain ⟨hf, ht⟩ := whenEnabled_next h
    have hload := of_decide_eq_true hf
    cases hw : s.loadWaits <;> rw [hw] at ht <;> subst ht
    · exact .load hload hw
    · exact .loadWaits hload hw
  | seqRound =>
    obtain ⟨hf, rfl⟩ := whenEnabled_next h
    exact .round (.inl rfl) (of_decide_eq_true hf) _ _
  | seqFinish =>
    obtain ⟨hf, rfl⟩ := whenEnabled_next h
    exact .finish (of_decide_eq_true hf)

/-! ### What no instruction changes, and who writes the rest -/

/-- No instruction stores to the memory, moves a pin or takes a pending move. -/
theorem InstrEffect.keeps_environment (h : InstrEffect s i t) :
    t.mem = s.mem ∧ t.memAddrW = s.memAddrW ∧ t.rst = s.rst ∧ t.memAck = s.memAck ∧ t.inputs = s.inputs := by
  cases h with
  | nothing | answer | clear | start | abort | base | length | loadWaits | finish => exact ⟨rfl, rfl, rfl, rfl, rfl⟩
  | startRefused | reserved | writeRefused | load | round => simp

/-- Only LOAD writes the snapshot and the block buffer, and only it and START the port's trace. -/
theorem InstrEffect.block_writer (h : InstrEffect s i t) (hi : i ≠ .seqLoad) :
    t.snap = s.snap ∧ t.m = s.m ∧ (t.reads = s.reads ∨ ∃ hi, i = .cmdStart hi ∧ t.reads = []) := by
  cases h with
  | nothing | answer | clear | abort | base | length | finish => exact ⟨rfl, rfl, .inl rfl⟩
  | start => exact ⟨rfl, rfl, .inr ⟨_, rfl, rfl⟩⟩
  | startRefused | reserved | writeRefused | round => simp
  | loadWaits | load => exact absurd rfl hi

/-- Only START begins the race record anew and counts draws. -/
theorem InstrEffect.race_writer (h : InstrEffect s i t) :
    (t.raced = s.raced ∧ t.draws = s.draws) ∨ ∃ hi, i = .cmdStart hi ∧ t.raced = [] ∧ t.draws = s.draws + 1 := by
  cases h with
  | nothing | answer | clear | abort | base | length | loadWaits | finish => exact .inl ⟨rfl, rfl⟩
  | start => exact .inr ⟨_, rfl, rfl, rfl⟩
  | startRefused | reserved | writeRefused | load | round => simp

/-- Only LOAD, START and ABORT end a read in progress. -/
theorem InstrEffect.fetched_writer (h : InstrEffect s i t) :
    t.fetched = s.fetched ∨ t.fetched = [] ∧ (i = .seqLoad ∨ ∃ hi, i = .cmdStart hi ∨ i = .cmdAbort hi) := by
  cases h with
  | nothing | answer | clear | base | length | loadWaits | finish => exact .inl rfl
  | start => exact .inr ⟨rfl, .inr ⟨_, .inl rfl⟩⟩
  | abort => exact .inr ⟨rfl, .inr ⟨_, .inr rfl⟩⟩
  | load => exact .inr ⟨loadBlock_fetched s, .inl rfl⟩
  | startRefused | reserved | writeRefused | round => simp

/-- Only a read changes reg_rdata. -/
theorem InstrEffect.rdata_writer (h : InstrEffect s i t) (hi : i.isRead = false) : t.rdata = s.rdata := by
  cases h with
  | nothing | clear | start | abort | base | length | loadWaits | finish => rfl
  | answer hread => simp [hi] at hread
  | startRefused | reserved | writeRefused | load | round => simp

/-- A read changes nothing but reg_rdata. -/
theorem InstrEffect.of_read (h : InstrEffect s i t) (hi : i.isRead = true) : t = { s with rdata := t.rdata } := by
  cases h with
  | nothing | loadWaits | answer => rfl
  | clear | start | startRefused | abort | base | load | finish => cases hi
  | reserved hres => simp [hres.not_seq_not_read] at hi
  | length hcfg | writeRefused hcfg => simp [hcfg.not_seq_not_read] at hi
  | round hround => simp [hround.seq_not_read] at hi

/-- No sequencer step writes STATUS.ERR, STATUS.ERR_CODE or the configuration. -/
theorem InstrEffect.seq_keeps_config (h : InstrEffect s i t) (hi : i.isSeq = true) :
    t.err = s.err ∧ t.errCode = s.errCode ∧ t.msgBase = s.msgBase ∧ t.msgLen = s.msgLen := by
  cases h with
  | nothing | loadWaits | finish => exact ⟨rfl, rfl, rfl, rfl⟩
  | load | round => simp
  | clear | start | startRefused | abort | base => cases hi
  | answer hread => simp [Instr.not_seq_of_read hread] at hi
  | reserved hres => simp [hres.not_seq_not_read] at hi
  | length hcfg | writeRefused hcfg => simp [hcfg.not_seq_not_read] at hi

/-- An accepted START and ABORT clear DONE, the FINISH of the last block sets it. -/
theorem InstrEffect.done_writer (h : InstrEffect s i t) :
    t.done = s.done ∨
    (t.done = false ∧ ((∃ hi, i = .cmdStart hi ∧ s.fsm = .idle) ∨ ∃ hi, i = .cmdAbort hi)) ∨
    (t.done = true ∧ i = .seqFinish ∧ s.blk.toNat + 1 = nblk s.msgLen ∧ t.fsm = .idle) := by
  cases h with
  | nothing | answer | clear | base | length | loadWaits => exact .inl rfl
  | start hf => exact .inr (.inl ⟨rfl, .inl ⟨_, rfl, hf⟩⟩)
  | abort => exact .inr (.inl ⟨rfl, .inr ⟨_, rfl⟩⟩)
  | startRefused | reserved | writeRefused => exact .inl (raiseErr_done s _)
  | load => exact .inl (loadBlock_done s)
  | round => exact .inl (roundStep_done s _ _)
  | finish =>
    cases hlast : s.lastBlock with
    | true => exact .inr (.inr ⟨by simp [hlast], rfl, of_decide_eq_true hlast, by simp [hlast]⟩)
    | false => exact .inl (by simp [hlast])

end Sys2Proof.Machine

namespace Sys2Proof.Proofs

open Sys2Proof.Machine Sys2Proof.Safety

/-- Settles O44: of the things an instruction can do, four touch the accumulator. -/
theorem onlyTheseWriteTheAccumulator : Obligations.OnlyTheseWriteTheAccumulator := by
  intro i s t h hne
  cases exec_effect h with
  | start hf => exact .inl ⟨_, rfl, hf⟩
  | abort => exact .inr (.inl ⟨_, rfl⟩)
  | round hi hf => exact .inr (.inr (.inl ⟨hf, hi⟩))
  | finish hf => exact .inr (.inr (.inr ⟨hf, rfl⟩))
  | nothing | answer | clear | base | length | loadWaits => exact absurd rfl hne
  | startRefused | reserved | writeRefused => exact absurd (raiseErr_acc s _) hne
  | load => exact absurd (loadBlock_acc s) hne

/-- Settles O45: the frames above, put together. -/
theorem instructionFrame : Obligations.InstructionFrame := by
  intro i s t h
  have heff := exec_effect h
  obtain ⟨hmem, hwidth, hrst, hack, hinputs⟩ := heff.keeps_environment
  exact ⟨hmem, fun a => by rw [hmem], hwidth, hrst, hack, hinputs, heff.block_writer, heff.race_writer,
    heff.fetched_writer, heff.rdata_writer, heff.of_read, heff.seq_keeps_config⟩

/-- Settles O48: DONE is kept, cleared by START or ABORT, or set by the FINISH of the last block. -/
theorem onlyTheseWriteDone : Obligations.OnlyTheseWriteDone := by
  intro i s t h
  obtain hkept | ⟨hclear, hwho⟩ | ⟨hset, hwho⟩ := (exec_effect h).done_writer
  · exact ⟨fun h0 h1 => by simp [hkept, h0] at h1, fun h1 h0 => by simp [hkept, h1] at h0⟩
  · exact ⟨fun _ h1 => by simp [hclear] at h1, fun _ _ => hwho⟩
  · exact ⟨fun _ _ => hwho, fun _ h0 => by simp [hset] at h0⟩

end Sys2Proof.Proofs

/-! PROOFS of the family 10_state.md, what a step runs and what it cannot see. The move a step takes, the sequencer's
turn, and two runs side by side that differ in the snapshot and the block buffer. -/

namespace Sys2Proof.Machine

variable {s t : State} {i : Instr}

/-! ### The move a step takes -/

theorem step_of_no_move (h : s.inputs = []) : step s = runFetched (fetchTurn s) := by
  simp only [step, fetch, h]

theorem step_of_move {e : Move} {l : List Move} (h : s.inputs = e :: l) :
    step s = runFetched (fetchMove e { s with inputs := l }) := by
  simp only [step, fetch, h]

/-- The sequencer has the turn when the next move says so or none is pending. -/
theorem step_of_turn {l : List Move} (h : s.inputs = .turn :: l ∨ (s.inputs = [] ∧ l = [])) :
    step s = runFetched (fetchTurn { s with inputs := l }) := by
  obtain hturn | ⟨hnone, rfl⟩ := h
  · exact step_of_move hturn
  · rw [step_of_no_move hnone, ← hnone]

theorem fetchTurn_quiet (h : s.rst = true ∨ s.fsm = .idle) : fetchTurn s = .move (.next s) := by
  rcases fetchTurn_cases s with ⟨hr, hf, -⟩ | ⟨hr, hf, -⟩ | ⟨hr, hf, -⟩ | ⟨-, hq⟩
  · simp [hr, hf] at h
  · simp [hr, hf] at h
  · simp [hr, hf] at h
  · exact hq

theorem fetchTurn_of_decode (hr : s.rst = false) (h : decode ⟨.fsm, (fsmCode s.fsm).toNat⟩ = .ok i) :
    fetchTurn s = .run i s := by
  simp [fetchTurn, hr, h]

/-- The codes of LOAD and ROUND decode to their steps (R82). -/
theorem decode_fsmCode_load : decode ⟨.fsm, (fsmCode .load).toNat⟩ = .ok .seqLoad := rfl

theorem decode_fsmCode_round : decode ⟨.fsm, (fsmCode .round).toNat⟩ = .ok .seqRound := rfl

/-! ### The round that a round index decodes to (R80) -/

/-- A round index is its kind and its position. -/
theorem roundIndex_kind_pos (j : BitVec 6) : roundIndex (roundKind j) (roundPos j) = j := by
  revert j
  decide

/-- In ROUND the generic step is the round that the round index decodes to: the kind is enabled, and its function and
word index are those the generic step selects. -/
theorem exec_decodeRound (hf : s.fsm = .round) : exec (decodeRound s.i) s = exec .seqRound s := by
  have hidx := roundIndex_kind_pos s.i
  have hen : s.roundEnabled s.i = true := by simp [State.roundEnabled, hf]
  have hgen : exec .seqRound s = .next (roundStep (roundFn s.i) (gIndex s.i) s) := by
    simp [exec, execSeqRound, hf]
  have hdec : decodeRound s.i =
      if roundKind s.i = 0#2 then .roundF (roundPos s.i)
      else if roundKind s.i = 1#2 then .roundG (roundPos s.i)
      else if roundKind s.i = 2#2 then .roundH (roundPos s.i)
      else .roundI (roundPos s.i) := rfl
  rw [hgen, hdec]
  rcases bv2_cases (roundKind s.i) with hk | hk | hk | hk
  all_goals
    rw [hk] at hidx
    simp [hk, exec, execRoundF, execRoundG, execRoundH, execRoundI, hidx, hen, roundFn, gIndex]

/-! ### Sequencer steps that are not enabled -/

theorem whenEnabled_of_disabled {e : Bool} (mn : String) (t : State) (h : e = false) :
    whenEnabled e mn t = .refused (.notEnabled mn) := by
  rw [h, whenEnabled_false]

theorem roundEnabled_eq_false {j : BitVec 6} (h : s.fsm ≠ .round ∨ s.i ≠ j) : s.roundEnabled j = false := by
  obtain h | h := h <;> simp [State.roundEnabled, h]

/-! ### Other values of the snapshot and the block buffer (R39, R40) -/

/-- The state with other values in the snapshot and the block buffer. -/
def State.withBlock (x : Chain) (y : Vector Word 16) (s : State) : State := { s with snap := x, m := y }

/-- In IDLE and LOAD the snapshot and the block buffer are not read. -/
def BlockUnused (s : State) : Prop := s.fsm = .idle ∨ s.fsm = .load

/-- The result r is t up to the snapshot and the block buffer, and in ROUND and FINISH in those too. -/
def SameOutsideBlock (t : State) (r : Result) : Prop :=
  ∃ x y, r = .next (t.withBlock x y) ∧ (t.fsm = .idle ∨ t.fsm = .load ∨ (x = t.snap ∧ y = t.m))

variable {x : Chain} {y : Vector Word 16}

/-- Where a move stays in IDLE or LOAD the snapshot and the block buffer may go on differing. -/
theorem BlockUnused.same (ht : BlockUnused t) : SameOutsideBlock t (.next (t.withBlock x y)) :=
  ⟨x, y, rfl, ht.imp_right .inl⟩

/-- Where a move overwrites both, the two runs end in one state. -/
theorem sameOutsideBlock_refl (t : State) : SameOutsideBlock t (.next t) :=
  ⟨t.snap, t.m, rfl, .inr (.inr ⟨rfl, rfl⟩)⟩

theorem withBlock_ite (c : Bool) (a b : State) :
    (if c then a.withBlock x y else b.withBlock x y) = (if c then a else b).withBlock x y := by
  cases c <;> rfl

theorem raiseErr_withBlock (code : BitVec 4) (s : State) :
    raiseErr code (s.withBlock x y) = (raiseErr code s).withBlock x y := by
  exact withBlock_ite s.err s { s with err := true, errCode := code }

theorem writeConfig_withBlock {w w' s : State} (hw : w' = w.withBlock x y) :
    writeConfig w' (s.withBlock x y) = (writeConfig w s).withBlock x y := by
  subst hw
  unfold writeConfig
  rw [raiseErr_withBlock]
  exact withBlock_ite s.busy _ w

/-- A register access does not see the snapshot and the block buffer. -/
theorem exec_withBlock (hi : i.isSeq = false) (h : exec i s = .next t) :
    exec i (s.withBlock x y) = .next (t.withBlock x y) := by
  cases i with
  | cmdStart hi =>
    cases h
    simp only [exec, execCmdStart, raiseErr_withBlock]
    exact congrArg Host.Outcome.next (withBlock_ite s.busy _ (beginMessage s))
  | cmdReserved0011 | cmdReserved01xx | cmdReserved1xxx =>
    cases h
    exact congrArg Host.Outcome.next (raiseErr_withBlock _ s)
  | wrStatus d =>
    cases h
    exact congrArg Host.Outcome.next (withBlock_ite (statusClears d) (clearErr s) s)
  | wrMsgBase | wrMsgLenLo | wrMsgLenHi =>
    cases h
    exact congrArg Host.Outcome.next (writeConfig_withBlock rfl)
  | roundF | roundG | roundH | roundI | seqLoad | seqRound | seqFinish => cases hi
  | cmdNop | cmdAbort | wrId | wrRsvd | wrDigest
  | rdCtrl | rdStatus | rdMsgBase | rdMsgLenLo | rdMsgLenHi | rdId | rdRsvd | rdDigestA | rdDigestB
  | rdDigestC | rdDigestD | rdDigestSwapA | rdDigestSwapB | rdDigestSwapC | rdDigestSwapD =>
    cases h
    rfl

/-- A LOAD overwrites the snapshot and the block buffer and reads neither. -/
theorem loadBlock_withBlock (s : State) : loadBlock (s.withBlock x y) = loadBlock s := by
  rw [loadBlock_eq, loadBlock_eq]
  rfl

theorem exec_seqLoad_waits (hf : s.fsm = .load) (hw : s.loadWaits = true) : exec .seqLoad s = .next s := by
  simp [exec, execSeqLoad, hf, hw]

/-- No register access leaves IDLE and LOAD but by going between them. -/
theorem AccessEffect.keeps_blockUnused (h : AccessEffect s t) (hs : BlockUnused s) : BlockUnused t := by
  cases h with
  | nothing | answer | clear | base | length => exact hs
  | abort => exact .inl rfl
  | start => exact .inr rfl
  | reserved | startRefused | writeRefused =>
    unfold BlockUnused
    rwa [raiseErr_fsm]

/-- A turn in IDLE or LOAD: nothing happens, or the LOAD waits, or it completes to one and the same state. -/
theorem fetchTurn_withBlock (hs : BlockUnused s) (h : runFetched (fetchTurn s) = .next t) :
    SameOutsideBlock t (runFetched (fetchTurn (s.withBlock x y))) := by
  cases turn_effect h with
  | quiet hq =>
    rw [fetchTurn_quiet (s := s.withBlock x y) hq]
    exact hs.same
  | waits hf hr hw =>
    rw [fetchTurn_of_decode (s := s.withBlock x y) hr (hf ▸ decode_fsmCode_load), runFetched_run,
      exec_seqLoad_waits (s := s.withBlock x y) hf hw]
    exact hs.same
  | load hf hr hw =>
    rw [fetchTurn_of_decode (s := s.withBlock x y) hr (hf ▸ decode_fsmCode_load), runFetched_run,
      exec_seqLoad (s := s.withBlock x y) hf hw, loadBlock_withBlock]
    exact sameOutsideBlock_refl _
  | round hf => simp [BlockUnused, hf] at hs
  | finish hf => simp [BlockUnused, hf] at hs

theorem fetchAccess_withBlock {w : BitVec 37} (hs : BlockUnused s) (h : runFetched (fetchAccess w s) = .next t) :
    SameOutsideBlock t (runFetched (fetchAccess w (s.withBlock x y))) := by
  have hrst : (s.withBlock x y).rst = s.rst := rfl
  unfold fetchAccess at h ⊢
  rw [hrst]
  cases hr : s.rst <;> rw [hr] at h
  · have hseq := decodeHow_isSeq w
    have ht := (exec_access_effect hseq h).keeps_blockUnused hs
    have h' := exec_withBlock (x := x) (y := y) hseq h
    change SameOutsideBlock t (exec _ _)
    rw [h']
    exact ht.same
  · cases h
    cases howWe w
    · exact BlockUnused.same (t := respond 0#32 s) hs
    · exact hs.same

theorem portCycle_withBlock (s : State) : portCycle (s.withBlock x y) = (portCycle s).withBlock x y := by
  exact withBlock_ite s.memReq (readByte s) s

/-- A move made in IDLE or LOAD does the same whatever the snapshot and the block buffer hold. -/
theorem fetchMove_withBlock (e : Move) (hs : BlockUnused s) (h : runFetched (fetchMove e s) = .next t) :
    SameOutsideBlock t (runFetched (fetchMove e (s.withBlock x y))) := by
  cases e with
  | access w => exact fetchAccess_withBlock hs h
  | turn => exact fetchTurn_withBlock hs h
  | memWrite a b =>
    obtain ⟨ha, rfl⟩ := hostMemWrite_next h
    have h' : hostMemWrite a b (s.withBlock x y) = _ := if_pos ha
    change SameOutsideBlock _ (hostMemWrite a b (s.withBlock x y))
    rw [h']
    exact BlockUnused.same (t := { s with mem := _, raced := _ }) hs
  | rst level =>
    cases h
    cases level
    · exact BlockUnused.same (t := { s with rst := false }) hs
    · exact sameOutsideBlock_refl (assertReset s)
  | answer on =>
    cases h
    exact BlockUnused.same (t := { s with memAck := on }) hs
  | ack =>
    cases h
    have ht : BlockUnused (portCycle s) := by
      unfold portCycle
      split <;> exact hs
    change SameOutsideBlock _ (.next (portCycle (s.withBlock x y)))
    rw [portCycle_withBlock]
    exact ht.same

/-! ### The word index within a group (R81) -/

/-- The position in its group of the round that reads word g: the inverse of R154's formulas modulo 16. -/
def gInverse (kind : BitVec 2) (g : BitVec 4) : BitVec 4 :=
  if kind = 0#2 then g
  else if kind = 1#2 then 13#4 * (g - 1#4)
  else if kind = 2#2 then 11#4 * (g - 5#4)
  else 7#4 * g

theorem gIndex_gInverse (kind : BitVec 2) (g : BitVec 4) : gIndex (kind ++ gInverse kind g) = g := by
  revert kind g
  decide

theorem gInverse_gIndex (kind : BitVec 2) (p : BitVec 4) : gInverse kind (gIndex (kind ++ p)) = p := by
  revert kind p
  decide

/-- R154's four formulas, for every round index. -/
theorem gIndex_toNat (j : BitVec 6) : (gIndex j).toNat =
    (if j.toNat < 16 then j.toNat else if j.toNat < 32 then 5 * j.toNat + 1
      else if j.toNat < 48 then 3 * j.toNat + 5 else 7 * j.toNat) % 16 := by
  revert j
  decide

/-- The rotation amounts are R31's table and lie in [4, 23], for every round index. -/
theorem rRom_table (j : BitVec 6) :
    rRom j = (([[7, 12, 17, 22], [5, 9, 14, 20], [4, 11, 16, 23], [6, 10, 15, 21]] : List (List Nat)).getD
      (j.toNat / 16) []).getD (j.toNat % 4) 0 ∧ 4 ≤ rRom j ∧ rRom j ≤ 23 := by
  revert j
  decide

end Sys2Proof.Machine

namespace Sys2Proof.Proofs

open Sys2Proof.Machine Sys2Proof.Safety

/-- Settles O50: the two runs take the same move, which does not see the snapshot and the block buffer; a completed LOAD
and a reset edge overwrite both alike, and every other move from IDLE and LOAD stays there. -/
theorem unspecifiedRegistersNeverMatter : Obligations.UnspecifiedRegistersNeverMatter := by
  intro s t x y hs hstep
  change SameOutsideBlock t (step (s.withBlock x y))
  cases hin : s.inputs with
  | nil =>
    rw [step_of_no_move hin] at hstep
    rw [step_of_no_move (s := s.withBlock x y) hin]
    exact fetchTurn_withBlock hs hstep
  | cons e l =>
    rw [step_of_move hin] at hstep
    rw [step_of_move (s := s.withBlock x y) hin]
    exact fetchMove_withBlock (s := { s with inputs := l }) e hs hstep

/-- Settles O7: a turn runs the decoded sequencer step, which in ROUND is the decoded round; IDLE has none. -/
theorem stepRunsTheEnabledSequencerStep : Obligations.StepRunsTheEnabledSequencerStep := by
  intro s l hr hin
  rw [step_of_turn hin]
  refine ⟨fun i hi => ?_, fun hf => ?_, fun hf => ?_⟩
  · rw [fetchTurn_of_decode (s := { s with inputs := l }) hr hi, runFetched_run]
  · rw [fetchTurn_of_decode (s := { s with inputs := l }) hr (hf ▸ decode_fsmCode_round), runFetched_run]
    exact (exec_decodeRound (s := { s with inputs := l }) hf).symm
  · rw [fetchTurn_quiet (s := { s with inputs := l }) (.inr hf), runFetched_move]

/-- Settles O36: outside its enabling condition every sequencer step is the refusal of whenEnabled. -/
theorem disabledSequencerStepsAreRefused : Obligations.DisabledSequencerStepsAreRefused := by
  intro s p
  have seq : ∀ (f : Fsm) (mn : String) (t : State), s.fsm ≠ f →
      whenEnabled (decide (s.fsm = f)) mn t = .refused (.notEnabled mn) :=
    fun f mn t h => whenEnabled_of_disabled mn t (decide_eq_false h)
  exact ⟨seq _ _ _, seq _ _ _, seq _ _ _,
    fun h => whenEnabled_of_disabled _ _ (roundEnabled_eq_false h),
    fun h => whenEnabled_of_disabled _ _ (roundEnabled_eq_false h),
    fun h => whenEnabled_of_disabled _ _ (roundEnabled_eq_false h),
    fun h => whenEnabled_of_disabled _ _ (roundEnabled_eq_false h)⟩

/-- Settles O10: each register's value in State.reset, field by field. -/
theorem resetStateValues : Obligations.ResetStateValues :=
  ⟨rfl, rfl, rfl, rfl, rfl, rfl, rfl, rfl, rfl, rfl, rfl⟩

/-- Settles O40: the ROMs by evaluation, the bijection by the inverse of the word index. -/
theorem romsAndWordSelection : Obligations.RomsAndWordSelection := by
  refine ⟨rfl, fun j => ?_, fun kind g => ⟨gInverse kind g, gIndex_gInverse kind g, fun q hq => ?_⟩⟩
  · obtain ⟨htable, hlow, hhigh⟩ := rRom_table j
    exact ⟨htable, hlow, hhigh, gIndex_toNat j⟩
  · rw [← hq, gInverse_gIndex]

/-- Settles O52: at reset the core is in IDLE with STATUS 0, so each invariant holds of those values or its premise
fails. -/
theorem invariantsHoldAtReset : Obligations.InvariantsHoldAtReset := by
  have hactive : ¬ (State.reset.fsm = .round ∨ State.reset.fsm = .finish) := by decide
  have hstatus : StatusLegal State.reset := ⟨fun _ => rfl, nofun, fun _ => rfl⟩
  have hmemory : MemoryLegal State.reset := ⟨by decide, rfl, by simp [State.reset]⟩
  obtain ⟨hblock, hfetched, hreads⟩ : PortInOrder State.reset := portInOrder_of_idle rfl rfl
  exact ⟨hstatus, hmemory, hblock, ⟨nofun, nofun⟩, hfetched, hreads, fun h => absurd h hactive,
    ⟨nofun, fun h => absurd h hactive⟩, fun _ => ⟨nofun, fun h => absurd h hactive⟩, nofun⟩

end Sys2Proof.Proofs

/-! PROOFS of the family 20_memory.md. The memory port's outputs and the bytes a LOAD takes, the configuration while
BUSY, and a host write to message memory. -/

namespace Sys2Proof.Machine

open Sys2Proof.Safety

variable {s t : State} {i : Instr}

/-! ### The bytes a LOAD takes (R53, R60 item 4, R153) -/

/-- A byte read at the port stays as it was read. -/
theorem loadByte_of_fetched {q : Nat} (hq : q < s.fetched.length) :
    s.loadByte (64 * s.blk.toNat + q) = s.fetched[q] := by
  rw [State.loadByte, Nat.add_sub_cancel_left, List.getElem?_eq_getElem hq, Option.getD_some]

/-- A byte not yet read is taken as a read gives it now. -/
theorem loadByte_of_not_fetched {q : Nat} (hq : s.fetched.length ≤ q) :
    s.loadByte (64 * s.blk.toNat + q) = s.msgByte (64 * s.blk.toNat + q) := by
  rw [State.loadByte, Nat.add_sub_cancel_left, List.getElem?_eq_none hq, Option.getD_none]

/-- Byte n of word k of the block buffer after a LOAD. -/
theorem byteOf_loadBlock (s : State) {k n : Nat} (hk : k < 16) (hn : n < 4) :
    byteOf (loadBlock s).m[k] n = s.stream (64 * s.blk.toNat + (4 * k + n)) := by
  rw [← Nat.add_assoc, ← byteOf_blockWords s.stream s.blk.toNat k n hk hn, loadBlock_m]

theorem stream_of_fetched {q : Nat} (hq : q < s.fetched.length) (hmsg : 64 * s.blk.toNat + q < s.msgLen.toNat) :
    s.stream (64 * s.blk.toNat + q) = s.fetched[q] := by
  rw [State.stream, padded_message _ hmsg, loadByte_of_fetched hq]

/-- A message byte not yet read comes from its address: what it holds, or what it has held since START. -/
theorem stream_heldSinceStart {q : Nat} (hq : s.fetched.length ≤ q)
    (hmsg : 64 * s.blk.toNat + q < s.msgLen.toNat) :
    HeldSinceStart s (64 * s.blk.toNat + q) (s.stream (64 * s.blk.toNat + q)) := by
  rw [State.stream, padded_message _ hmsg, loadByte_of_not_fetched hq]
  exact msgByte_mem s _

/-! ### The outputs mem_req and mem_addr (R51, R53) -/

theorem memReq_iff (s : State) : s.memReq = true ↔
    s.rst = false ∧ s.fsm = .load ∧ s.fetched.length < blockBytes s.msgLen s.blk.toNat := by
  simp [State.memReq, State.portWants, and_assoc]

@[simp] theorem raiseErr_memReq (code : BitVec 4) (s : State) : (raiseErr code s).memReq = s.memReq := by
  simp [State.memReq, State.portWants]

@[simp] theorem raiseErr_memAddr (code : BitVec 4) (s : State) : (raiseErr code s).memAddr = s.memAddr := by
  simp [State.memAddr, State.portPos]

theorem memReq_portWants (hq : s.memReq = true) : s.portWants = true := by
  obtain ⟨-, -, hleft⟩ := (memReq_iff s).1 hq
  exact decide_eq_true hleft

/-- A register access leaves a request and its address standing, or is an ABORT, which withdraws it (R214). -/
theorem InstrEffect.request_kept_or_abort (h : InstrEffect s i t) (hseq : i.isSeq = false) (hq : s.memReq = true) :
    (t.memReq = true ∧ t.memAddr = s.memAddr) ∨
    (t.memReq = false ∧ t.fsm = .idle ∧ ∃ hi, i = .cmdAbort hi) := by
  obtain ⟨-, hload, -⟩ := (memReq_iff s).1 hq
  cases h with
  | nothing | answer | clear => exact .inl ⟨hq, rfl⟩
  | startRefused | reserved | writeRefused =>
    exact .inl ⟨(raiseErr_memReq _ s).trans hq, raiseErr_memAddr _ s⟩
  | abort => exact .inr ⟨by simp [State.memReq], rfl, _, rfl⟩
  | start hf | base hf | length _ hf => simp [hload] at hf
  | round hround => simp [hround.seq_not_read] at hseq
  | loadWaits | load | finish => cases hseq

/-- A cycle of the port with mem_ack = 1 and a request reads a byte. -/
theorem step_ack_of_memReq {l : List Move} (hin : s.inputs = .ack :: l) (hq : s.memReq = true) :
    step s = .next (readByte { s with inputs := l }) := by
  rw [step_of_move hin]
  exact congrArg Host.Outcome.next (if_pos hq)

/-- A cycle of the port with mem_ack = 1 and no request reads nothing. -/
theorem step_ack_of_no_memReq {l : List Move} (hin : s.inputs = .ack :: l) (hq : s.memReq = false) :
    step s = .next { s with inputs := l } := by
  rw [step_of_move hin]
  exact congrArg Host.Outcome.next (if_neg (ne_true_of_eq_false hq))

/-- Where the memory answers, a LOAD that has read a byte in a cycle of its own comes to the same end (R153). -/
theorem exec_seqLoad_readByte (hq : s.memReq = true) (hack : s.memAck = true) :
    exec .seqLoad (readByte s) = exec .seqLoad s := by
  obtain ⟨-, hload, -⟩ := (memReq_iff s).1 hq
  have hgoes : ∀ u : State, u.memAck = true → u.loadWaits = false := fun u hu =>
    (loadWaits_false_iff u).2 (.inl hu)
  rw [exec_seqLoad hload (hgoes s hack), exec_seqLoad (s := readByte s) hload (hgoes _ hack),
    loadBlock_readByte s (memReq_portWants hq)]

/-! ### The configuration while BUSY (R217 to R219) -/

theorem AccessEffect.keeps_config_of_busy (h : AccessEffect s t) (hbusy : s.busy = true) :
    t.msgBase = s.msgBase ∧ t.msgLen = s.msgLen := by
  cases h with
  | nothing | answer | clear | abort => exact ⟨rfl, rfl⟩
  | reserved | startRefused | writeRefused => exact ⟨raiseErr_msgBase s _, raiseErr_msgLen s _⟩
  | start hb | base hb | length hb => simp [hbusy] at hb

theorem TurnEffect.keeps_config (h : TurnEffect s t) : t.msgBase = s.msgBase ∧ t.msgLen = s.msgLen := by
  cases h with
  | waits | quiet | finish => exact ⟨rfl, rfl⟩
  | load => exact ⟨loadBlock_msgBase s, loadBlock_msgLen s⟩
  | round => exact ⟨roundStep_msgBase s _ _, roundStep_msgLen s _ _⟩

/-- A step between two BUSY states keeps MSG_BASE and MSG_LEN: a reset edge, which clears them, ends in IDLE. -/
theorem StepEffect.keeps_config_of_busy (h : StepEffect s t) (hs : s.fsm ≠ .idle) (ht : t.fsm ≠ .idle) :
    t.msgBase = s.msgBase ∧ t.msgLen = s.msgLen := by
  cases h with
  | access _ h => exact h.keeps_config_of_busy ((busy_iff s).2 hs)
  | turn h => exact h.keeps_config
  | ignored _ w => cases w <;> exact ⟨rfl, rfl⟩
  | rst level =>
    cases level with
    | false => exact ⟨rfl, rfl⟩
    | true => exact absurd rfl ht
  | memWrite | answer | port | portQuiet => exact ⟨rfl, rfl⟩

/-! ### A host write to message memory (R52) -/

/-- A host write inside the address space, the race record written with fsm. -/
theorem hostMemWrite_of_lt {a : Nat} (b : Byte) (ha : a < 2 ^ s.memAddrW) :
    hostMemWrite a b s = .next { s with
      mem := s.mem.write a b,
      raced := if s.fsm ≠ .idle then s.raced ++ [(a, s.mem.read a)] else s.raced } := by
  simp only [hostMemWrite, if_pos ha, busy_iff]

theorem hostMemWrite_of_ge {a : Nat} (b : Byte) (ha : 2 ^ s.memAddrW ≤ a) :
    hostMemWrite a b s = .fault (.noSuchAddress a) :=
  if_neg (Nat.not_lt.2 ha)

end Sys2Proof.Machine

namespace Sys2Proof.Proofs

open Sys2Proof.Machine Sys2Proof.Safety

/-- Settles O33: the LOAD runs, and each byte of its block is a byte of the stream: read already, held by its address
since START, or padding. -/
theorem loadTakesOnlyHeldBytes : Obligations.LoadTakesOnlyHeldBytes := by
  intro s hload hready
  refine ⟨loadBlock s, exec_seqLoad hload ((loadWaits_false_iff s).2 hready), loadBlock_fsm s, loadBlock_snap s,
    loadBlock_mem s, loadBlock_raced s, fun k n hk hn => ?_⟩
  rw [byteOf_loadBlock s hk hn, Nat.add_assoc]
  exact ⟨fun hq hmsg => stream_of_fetched hq hmsg, fun hq hmsg => stream_heldSinceStart hq hmsg,
    fun hpad => padded_padding s.loadByte hpad⟩

/-- Settles O34: mem_req by its definition; while it is 1 the LOAD waits or reads, and an access keeps it or is ABORT. -/
theorem memoryPort : Obligations.MemoryPort := by
  intro s
  refine ⟨memReq_iff s, rfl, fun hq => ⟨fun hack => ?_, fun i t hi h => ?_, fun l hin => ?_⟩, fun hq l hin => ?_⟩
  · obtain ⟨-, hload, -⟩ := (memReq_iff s).1 hq
    exact exec_seqLoad_waits hload (by simp [State.loadWaits, hack, memReq_portWants hq])
  · exact (exec_effect h).request_kept_or_abort hi hq
  · exact ⟨s.msgByte s.portPos, msgByte_mem s s.portPos, step_ack_of_memReq hin hq, exec_seqLoad_readByte hq⟩
  · exact step_ack_of_no_memReq hin hq

/-- Settles O49: a step between two BUSY states refuses every configuration write, and no step changes the width. -/
theorem configurationStableWhileBusy : Obligations.ConfigurationStableWhileBusy := by
  intro s t h hs ht
  have heff := step_effect h
  obtain ⟨hbase, hlen⟩ := heff.keeps_config_of_busy hs ht
  exact ⟨hbase, hlen, heff.memAddrW_eq⟩

/-- Settles O11: the memory's write laws at the address written and at every other one. -/
theorem hostMemoryWrite : Obligations.HostMemoryWrite := by
  intro s l a b hin hlegal
  obtain ⟨-, hwf, -⟩ := hlegal
  rw [step_of_move hin]
  exact ⟨fun ha => ⟨s.mem.write a b, Memory.write_wf a b hwf, hostMemWrite_of_lt (s := { s with inputs := l }) b ha,
    Memory.read_write_self a b hwf, fun x hx => Memory.read_write_other s.mem b hx⟩,
    fun ha => hostMemWrite_of_ge (s := { s with inputs := l }) b ha⟩

end Sys2Proof.Proofs

/-! PROOFS of the family 30_encoding.md. The words of each format and their fields, the decoder on the words the
encoder builds and the encoder on what the decoder reads, the rows of the opcode table, and the word placed for the
next step. -/

namespace Sys2Proof

/-! ### The words of each format (R70, R80, R82) -/

/-- A code word that is a word of its format. -/
inductive CodeWord.Fits : CodeWord → Prop
  | how (w : BitVec 37) : Fits ⟨.how, w.toNat⟩
  | ridx (j : BitVec 6) : Fits ⟨.ridx, j.toNat⟩
  | fsm (x : BitVec 2) : Fits ⟨.fsm, x.toNat⟩

theorem CodeWord.fits_of_lt {c : CodeWord} (h : c.bits < 2 ^ fmtWidth c.fmt) : c.Fits := by
  obtain ⟨f, n⟩ := c
  cases f with
  | how => exact .how (BitVec.ofNatLT n h)
  | ridx => exact .ridx (BitVec.ofNatLT n h)
  | fsm => exact .fsm (BitVec.ofNatLT n h)

theorem CodeWord.fits_of_decode {c : CodeWord} {i : Instr} (h : decode c = .ok i) : c.Fits := by
  refine fits_of_lt (Nat.lt_of_not_le fun hwide => ?_)
  simp [decode, hwide] at h

theorem decode_how (w : BitVec 37) : decode ⟨.how, w.toNat⟩ = .ok (decodeHow w) := by
  simp [decode, fmtWidth, w.isLt]

theorem decode_ridx (j : BitVec 6) : decode ⟨.ridx, j.toNat⟩ = .ok (decodeRound j) := by
  simp [decode, fmtWidth, j.isLt]

theorem decode_fsm (x : BitVec 2) : decode ⟨.fsm, x.toNat⟩ = decodeFsm x := by
  simp [decode, fmtWidth, x.isLt]

/-! ### The fields of a word (R70, R72, R80) -/

theorem howWe_howBits (we : BitVec 1) (idx : BitVec 4) (data : Word) :
    howWe (howBits we idx data) = we.getLsbD 0 := by
  simp only [howWe, howBits, BitVec.getLsbD_append]
  rfl

theorem howIdx_howBits (we : BitVec 1) (idx : BitVec 4) (data : Word) : howIdx (howBits we idx data) = idx :=
  (BitVec.extractLsb'_append_eq_of_le (Nat.le_refl 32)).trans BitVec.extractLsb'_append_eq_right

theorem howData_howBits (we : BitVec 1) (idx : BitVec 4) (data : Word) : howData (howBits we idx data) = data :=
  BitVec.extractLsb'_append_eq_right

/-- A host operation word is the word of a write or of a read, with an index and data. -/
theorem exists_howBits (w : BitVec 37) : ∃ idx data, w = howBits 1#1 idx data ∨ w = howBits 0#1 idx data := by
  have hw : howBits (w.extractLsb' 36 1) (howIdx w) (howData w) = w := by
    rw [howBits, howIdx, howData, BitVec.extractLsb'_append_extractLsb'_eq_extractLsb' (by rfl),
      BitVec.extractLsb'_append_extractLsb'_eq_extractLsb' (by rfl)]
    exact BitVec.extractLsb'_eq_self
  refine ⟨howIdx w, howData w, ?_⟩
  rcases BitVec.eq_zero_or_eq_one (w.extractLsb' 36 1) with hwe | hwe <;> rw [hwe] at hw
  · exact .inr hw.symm
  · exact .inl hw.symm

/-- The data of a CTRL write is the ignored bits and a command code. -/
theorem exists_ctrlData (data : Word) : ∃ (hi : BitVec 28) (cmd : BitVec 4), data = hi ++ cmd := by
  refine ⟨data.extractLsb' 4 28, data.extractLsb' 0 4, ?_⟩
  rw [BitVec.extractLsb'_append_extractLsb'_eq_extractLsb' (by rfl)]
  exact BitVec.extractLsb'_eq_self.symm

/-- A round index is a kind and a position. -/
theorem exists_roundIndex (j : BitVec 6) : ∃ kind p, j = roundIndex kind p :=
  ⟨Machine.roundKind j, Machine.roundPos j, (Machine.roundIndex_kind_pos j).symm⟩

/-! ### The decoder on the words the encoder builds -/

theorem decodeHow_write (idx : BitVec 4) (data : Word) : decodeHow (howBits 1#1 idx data) = decodeWrite idx data := by
  simp [decodeHow, howWe_howBits, howIdx_howBits, howData_howBits]

theorem decodeHow_read (idx : BitVec 4) (data : Word) : decodeHow (howBits 0#1 idx data) = decodeRead idx data := by
  simp [decodeHow, howWe_howBits, howIdx_howBits, howData_howBits]

theorem decode_writeWord (idx : BitVec 4) (data : Word) : decode (writeWord idx data) = .ok (decodeWrite idx data) := by
  rw [writeWord, decode_how, decodeHow_write]

theorem decode_readWord (idx : BitVec 4) (data : Word) : decode (readWord idx data) = .ok (decodeRead idx data) := by
  rw [readWord, decode_how, decodeHow_read]

/-- The command of a CTRL write with these ignored bits and this code (R73). -/
def commandOf (hi : BitVec 28) (cmd : BitVec 4) : Instr :=
  if cmd = 0#4 then .cmdNop hi
  else if cmd = 1#4 then .cmdStart hi
  else if cmd = 2#4 then .cmdAbort hi
  else if cmd = 3#4 then .cmdReserved0011 hi
  else if cmd.toNat ≤ 7 then .cmdReserved01xx hi cmd
  else .cmdReserved1xxx hi cmd

theorem decodeCmd_append (hi : BitVec 28) (cmd : BitVec 4) : decodeCmd (hi ++ cmd) = commandOf hi cmd := by
  have hhi : (hi ++ cmd : Word).extractLsb' 4 28 = hi := BitVec.extractLsb'_append_eq_left
  have hcmd : (hi ++ cmd : Word).extractLsb' 0 4 = cmd := BitVec.extractLsb'_append_eq_right
  rw [decodeCmd, hhi, hcmd]
  rfl

theorem decode_ctrlWord (hi : BitVec 28) (cmd : BitVec 4) : decode (ctrlWord hi cmd) = .ok (commandOf hi cmd) := by
  rw [ctrlWord, decode_writeWord, ← decodeCmd_append]
  rfl

/-- The round of a kind at a position in its group (R80). -/
def roundOf (kind : BitVec 2) (p : BitVec 4) : Instr :=
  if kind = 0#2 then .roundF p
  else if kind = 1#2 then .roundG p
  else if kind = 2#2 then .roundH p
  else .roundI p

theorem decodeRound_roundIndex (kind : BitVec 2) (p : BitVec 4) : decodeRound (roundIndex kind p) = roundOf kind p := by
  have hkind : (roundIndex kind p).extractLsb' 4 2 = kind := BitVec.extractLsb'_append_eq_left
  have hp : (roundIndex kind p).extractLsb' 0 4 = p := BitVec.extractLsb'_append_eq_right
  rw [decodeRound, hkind, hp]
  rfl

theorem decode_roundWord (kind : BitVec 2) (p : BitVec 4) : decode (roundWord kind p) = .ok (roundOf kind p) := by
  rw [roundWord, decode_ridx, decodeRound_roundIndex]

/-! ### The sequencer's words (R80, R82) -/

theorem decodeRound_isSeq (j : BitVec 6) : (decodeRound j).isSeq = true := by
  obtain ⟨kind, p, rfl⟩ := exists_roundIndex j
  rw [decodeRound_roundIndex]
  rcases bv2_cases kind with rfl | rfl | rfl | rfl <;> rfl

/-- The sequencer codes that are a step: every code but IDLE's (R82). -/
theorem decodeFsm_cases {x : BitVec 2} {i : Instr} (h : decodeFsm x = .ok i) :
    (x = 1#2 ∧ i = .seqLoad) ∨ (x = 2#2 ∧ i = .seqRound) ∨ (x = 3#2 ∧ i = .seqFinish) := by
  rcases bv2_cases x with rfl | rfl | rfl | rfl <;> cases h
  · exact .inl ⟨rfl, rfl⟩
  · exact .inr (.inl ⟨rfl, rfl⟩)
  · exact .inr (.inr ⟨rfl, rfl⟩)

theorem decodeFsm_isSeq {x : BitVec 2} {i : Instr} (h : decodeFsm x = .ok i) : i.isSeq = true := by
  rcases decodeFsm_cases h with ⟨-, rfl⟩ | ⟨-, rfl⟩ | ⟨-, rfl⟩ <;> rfl

/-! ### The rows that leave operand bits open (R73, R37, R38) -/

/-- A code from n on is none of the codes below n. -/
theorem ne_of_le_toNat {n : Nat} {x : BitVec 4} (hx : n ≤ x.toNat) (k : BitVec 4) (hk : k.toNat < n) : x ≠ k := by
  rintro rfl
  exact Nat.not_lt.2 hx hk

theorem commandOf_reserved01xx (hi : BitVec 28) {cmd : BitVec 4} (hcmd : 4 ≤ cmd.toNat ∧ cmd.toNat ≤ 7) :
    commandOf hi cmd = .cmdReserved01xx hi cmd := by
  obtain ⟨hlow, hhigh⟩ := hcmd
  simp [commandOf, ne_of_le_toNat hlow, hhigh]

theorem commandOf_reserved1xxx (hi : BitVec 28) {cmd : BitVec 4} (hcmd : 8 ≤ cmd.toNat) :
    commandOf hi cmd = .cmdReserved1xxx hi cmd := by
  simp [commandOf, ne_of_le_toNat hcmd, Nat.not_le.2 hcmd]

theorem decodeWrite_digest {idx : BitVec 4} (data : Word) (hidx : 8 ≤ idx.toNat) :
    decodeWrite idx data = .wrDigest idx data := by
  simp [decodeWrite, ne_of_le_toNat hidx, Nat.not_le.2 hidx]

/-- The reserved indices. -/
theorem reserved_index {idx : BitVec 4} (hidx : idx.toNat = 6 ∨ idx.toNat = 7) : idx = 6#4 ∨ idx = 7#4 :=
  hidx.imp BitVec.eq_of_toNat_eq BitVec.eq_of_toNat_eq

/-! ### The encoder on what the decoder reads -/

theorem encode_commandOf (hi : BitVec 28) (cmd : BitVec 4) :
    encode (commandOf hi cmd) = ctrlWord hi cmd ∧ (commandOf hi cmd).wf = true := by
  rcases bv4_cases cmd with
    rfl | rfl | rfl | rfl | rfl | rfl | rfl | rfl | rfl | rfl | rfl | rfl | rfl | rfl | rfl | rfl <;>
    exact ⟨rfl, rfl⟩

theorem encode_decodeWrite (idx : BitVec 4) (data : Word) :
    encode (decodeWrite idx data) = writeWord idx data ∧ (decodeWrite idx data).wf = true := by
  rcases bv4_cases idx with
    rfl | rfl | rfl | rfl | rfl | rfl | rfl | rfl | rfl | rfl | rfl | rfl | rfl | rfl | rfl | rfl
  · obtain ⟨hi, cmd, rfl⟩ := exists_ctrlData data
    change encode (decodeCmd (hi ++ cmd)) = ctrlWord hi cmd ∧ (decodeCmd (hi ++ cmd)).wf = true
    rw [decodeCmd_append]
    exact encode_commandOf hi cmd
  all_goals exact ⟨rfl, rfl⟩

theorem encode_decodeRead (idx : BitVec 4) (data : Word) :
    encode (decodeRead idx data) = readWord idx data ∧ (decodeRead idx data).wf = true := by
  rcases bv4_cases idx with
    rfl | rfl | rfl | rfl | rfl | rfl | rfl | rfl | rfl | rfl | rfl | rfl | rfl | rfl | rfl | rfl <;>
    exact ⟨rfl, rfl⟩

theorem encode_decodeHow (w : BitVec 37) : encode (decodeHow w) = ⟨.how, w.toNat⟩ ∧ (decodeHow w).wf = true := by
  obtain ⟨idx, data, rfl | rfl⟩ := exists_howBits w
  · rw [decodeHow_write]
    exact encode_decodeWrite idx data
  · rw [decodeHow_read]
    exact encode_decodeRead idx data

theorem encode_decodeRound (j : BitVec 6) :
    encode (decodeRound j) = ⟨.ridx, j.toNat⟩ ∧ (decodeRound j).wf = true := by
  obtain ⟨kind, p, rfl⟩ := exists_roundIndex j
  rw [decodeRound_roundIndex]
  rcases bv2_cases kind with rfl | rfl | rfl | rfl <;> exact ⟨rfl, rfl⟩

/-- Format by format and field by field, the encoder puts back what the decoder took apart. -/
theorem encode_of_decode {c : CodeWord} {i : Instr} (h : decode c = .ok i) : encode i = c ∧ i.wf = true := by
  cases CodeWord.fits_of_decode h with
  | how w =>
    cases (decode_how w).symm.trans h
    exact encode_decodeHow w
  | ridx j =>
    cases (decode_ridx j).symm.trans h
    exact encode_decodeRound j
  | fsm x =>
    rcases decodeFsm_cases ((decode_fsm x).symm.trans h) with ⟨rfl, rfl⟩ | ⟨rfl, rfl⟩ | ⟨rfl, rfl⟩ <;>
      exact ⟨rfl, rfl⟩

/-- Row by row: the word's fields decode to the row's instruction, by `wf` where the row leaves operand bits open. -/
theorem decode_encode {i : Instr} (hwf : i.wf = true) : decode (encode i) = .ok i := by
  cases i with
  | cmdNop hi | cmdStart hi | cmdAbort hi | cmdReserved0011 hi => exact decode_ctrlWord hi _
  | cmdReserved01xx hi cmd =>
    exact (decode_ctrlWord hi cmd).trans (congrArg _ (commandOf_reserved01xx hi (of_decide_eq_true hwf)))
  | cmdReserved1xxx hi cmd =>
    exact (decode_ctrlWord hi cmd).trans (congrArg _ (commandOf_reserved1xxx hi (of_decide_eq_true hwf)))
  | wrStatus data | wrMsgBase data | wrMsgLenLo data | wrMsgLenHi data | wrId data => exact decode_writeWord _ data
  | wrRsvd idx data => rcases reserved_index (of_decide_eq_true hwf) with rfl | rfl <;> exact decode_writeWord _ data
  | wrDigest idx data =>
    exact (decode_writeWord idx data).trans (congrArg _ (decodeWrite_digest data (of_decide_eq_true hwf)))
  | rdRsvd idx data => rcases reserved_index (of_decide_eq_true hwf) with rfl | rfl <;> exact decode_readWord _ data
  | rdCtrl data | rdStatus data | rdMsgBase data | rdMsgLenLo data | rdMsgLenHi data | rdId data
  | rdDigestA data | rdDigestB data | rdDigestC data | rdDigestD data
  | rdDigestSwapA data | rdDigestSwapB data | rdDigestSwapC data | rdDigestSwapD data => exact decode_readWord _ data
  | roundF p | roundG p | roundH p | roundI p => exact decode_roundWord _ p
  | seqLoad | seqRound | seqFinish => rfl

/-! ### The rows of the opcode table (R84) -/

/-- No word selects both rows: they are of two formats, or differ in a bit that both look at. -/
def Row.Apart (r q : Row) : Prop := r.fmt ≠ q.fmt ∨ r.value &&& q.mask ≠ q.value &&& r.mask

theorem Row.selects_iff {r : Row} {c : CodeWord} :
    r.selects c = true ↔ c.fmt = r.fmt ∧ c.bits &&& r.mask = r.value := by
  simp [Row.selects]

theorem Row.Apart.not_selects {r q : Row} {c : CodeWord} (h : r.Apart q) (hr : r.selects c = true) :
    ¬ q.selects c = true := by
  intro hq
  obtain ⟨hfmt, hval⟩ := Row.selects_iff.1 hr
  obtain ⟨hfmt', hval'⟩ := Row.selects_iff.1 hq
  obtain hne | hne := h
  · exact hne (hfmt.symm.trans hfmt')
  · exact hne (by rw [← hval, ← hval', Nat.and_assoc, Nat.and_assoc, Nat.and_comm r.mask])

theorem opcodeTable_apart : opcodeTable.Pairwise Row.Apart := by
  unfold Row.Apart
  decide

theorem rowOf_mem_opcodeTable (i : Instr) : rowOf i ∈ opcodeTable := by
  cases i <;> simp [opcodeTable, hostRowReps, seqRowReps, rowOf]

open Laws.RowMatch in
/-- The laws of Laws/PerInstr.lean, for every instruction. -/
theorem rowOf_selects_encode : ∀ i : Instr, Statement i
  | .cmdNop hi => cmdNop hi
  | .cmdStart hi => cmdStart hi
  | .cmdAbort hi => cmdAbort hi
  | .cmdReserved0011 hi => cmdReserved0011 hi
  | .cmdReserved01xx hi cmd => cmdReserved01xx hi cmd
  | .cmdReserved1xxx hi cmd => cmdReserved1xxx hi cmd
  | .wrStatus data => wrStatus data
  | .wrMsgBase data => wrMsgBase data
  | .wrMsgLenLo data => wrMsgLenLo data
  | .wrMsgLenHi data => wrMsgLenHi data
  | .wrId data => wrId data
  | .wrRsvd idx data => wrRsvd idx data
  | .wrDigest idx data => wrDigest idx data
  | .rdCtrl data => rdCtrl data
  | .rdStatus data => rdStatus data
  | .rdMsgBase data => rdMsgBase data
  | .rdMsgLenLo data => rdMsgLenLo data
  | .rdMsgLenHi data => rdMsgLenHi data
  | .rdId data => rdId data
  | .rdRsvd idx data => rdRsvd idx data
  | .rdDigestA data => rdDigestA data
  | .rdDigestB data => rdDigestB data
  | .rdDigestC data => rdDigestC data
  | .rdDigestD data => rdDigestD data
  | .rdDigestSwapA data => rdDigestSwapA data
  | .rdDigestSwapB data => rdDigestSwapB data
  | .rdDigestSwapC data => rdDigestSwapC data
  | .rdDigestSwapD data => rdDigestSwapD data
  | .roundF p => roundF p
  | .roundG p => roundG p
  | .roundH p => roundH p
  | .roundI p => roundI p
  | .seqLoad => seqLoad
  | .seqRound => seqRound
  | .seqFinish => seqFinish

/-- Of rows that are pairwise apart a word selects the one that is known to be selected, and no other. -/
theorem filter_selects_eq {l : List Row} {r : Row} {c : CodeWord} (hl : l.Pairwise Row.Apart) (hr : r ∈ l)
    (hc : r.selects c = true) : l.filter (fun q => q.selects c) = [r] := by
  induction l with
  | nil => cases hr
  | cons q l ih =>
    obtain ⟨hq, hl⟩ := List.pairwise_cons.1 hl
    obtain rfl | hr := List.mem_cons.1 hr
    · rw [List.filter_cons_of_pos (by exact hc), List.filter_eq_nil_iff.2 fun q' hq' => (hq q' hq').not_selects hc]
    · rw [List.filter_cons_of_neg (by exact fun hqc => (hq r hr).not_selects hqc hc), ih hl hr]

/-- A word that decodes selects the row of its instruction only. -/
theorem filter_opcodeTable_of_decode {c : CodeWord} {i : Instr} (h : decode c = .ok i) :
    opcodeTable.filter (fun r => r.selects c) = [rowOf i] := by
  obtain ⟨rfl, hwf⟩ := encode_of_decode h
  exact filter_selects_eq opcodeTable_apart (rowOf_mem_opcodeTable i) (rowOf_selects_encode i hwf)

theorem CodeWord.Fits.exists_decode {c : CodeWord} (h : c.Fits) (hidle : ¬ (c.fmt = .fsm ∧ c.bits = 0)) :
    ∃ i, decode c = .ok i := by
  cases h with
  | how w => exact ⟨_, decode_how w⟩
  | ridx j => exact ⟨_, decode_ridx j⟩
  | fsm x =>
    rcases bv2_cases x with rfl | rfl | rfl | rfl
    · exact absurd ⟨rfl, rfl⟩ hidle
    all_goals exact ⟨_, rfl⟩

end Sys2Proof

namespace Sys2Proof.Machine

variable {s : State} {i : Instr}

/-! ### The placed word (log 14, log 16) -/

/-- A placed access runs with the reset pin released. -/
theorem step_placed_access (w : BitVec 37) (s : State) :
    step (s.withFetchWord 37 w.toNat) = exec (decodeHow w) { s with rst := false } := by
  change step (placeAccess (BitVec.ofNat 37 w.toNat) s) = _
  rw [BitVec.ofNat_toNat, BitVec.setWidth_eq]
  rfl

/-- A placed round index runs its round: the turn in ROUND is that round's. -/
theorem step_placed_round (j : BitVec 6) (s : State) :
    step (s.withFetchWord 6 j.toNat) = exec (decodeRound j) { s with rst := false, fsm := .round, i := j } := by
  change step (placeRound (BitVec.ofNat 6 j.toNat) s) = _
  rw [BitVec.ofNat_toNat, BitVec.setWidth_eq]
  exact (exec_decodeRound (s := { s with rst := false, fsm := .round, i := j }) rfl).symm

theorem fsmCode_fsmOfCode (x : BitVec 2) : fsmCode (fsmOfCode x) = x := by
  revert x
  decide

/-- A placed sequencer code runs its step: the turn in that sequencer state is that step's. -/
theorem step_placed_fsm {x : BitVec 2} (h : decodeFsm x = .ok i) (s : State) :
    step (s.withFetchWord 2 x.toNat) = exec i { s with rst := false, memAck := true, fsm := fsmOfCode x } := by
  change step (placeFsm (BitVec.ofNat 2 x.toNat) s) = _
  rw [BitVec.ofNat_toNat, BitVec.setWidth_eq, step_of_move (s := placeFsm x s) rfl]
  have hdec : decode ⟨.fsm, (fsmCode (fsmOfCode x)).toNat⟩ = .ok i := by rw [fsmCode_fsmOfCode, decode_fsm, h]
  exact congrArg runFetched
    (fetchTurn_of_decode (s := { s with rst := false, memAck := true, fsm := fsmOfCode x }) rfl hdec)

theorem whenEnabled_of_enabled {e : Bool} (mn : String) (t : State) (h : e = true) : whenEnabled e mn t = .next t := by
  rw [h, whenEnabled_true]

/-- In the sequencer state of its code a step is enabled. -/
theorem exec_of_decodeFsm {x : BitVec 2} (h : decodeFsm x = .ok i) (hs : s.fsm = fsmOfCode x) :
    ∃ t, exec i s = .next t := by
  rcases decodeFsm_cases h with ⟨rfl, rfl⟩ | ⟨rfl, rfl⟩ | ⟨rfl, rfl⟩ <;>
    exact ⟨_, whenEnabled_of_enabled _ _ (decide_eq_true hs)⟩

/-! ### The assembler's words (R83) -/

theorem decodeHow_asmWrite (r : Reg) (v : Word) : decodeHow (asmWrite r v) = decodeWrite (regIdx r) v :=
  decodeHow_write (regIdx r) v

end Sys2Proof.Machine

namespace Sys2Proof.Proofs

open Sys2Proof.Machine

/-- Settles O1: the fields the encoder puts together are those the decoder takes apart, row by row. -/
theorem decodeOfEncodeIsTheInstruction : Obligations.DecodeOfEncodeIsTheInstruction :=
  fun _ hwf => decode_encode hwf

/-- Settles O2: the word is a word of its format, and each of its fields stands in what it decodes to. -/
theorem encodeOfDecodeIsTheWord : Obligations.EncodeOfDecodeIsTheWord :=
  fun _ _ h => encode_of_decode h

/-- Settles O3: the word decodes and selects its instruction's row, and the rows of the table are pairwise apart. -/
theorem everyWordSelectsExactlyItsRow : Obligations.EveryWordSelectsExactlyItsRow := by
  intro c hc hidle
  obtain ⟨i, hi⟩ := (CodeWord.fits_of_lt hc).exists_decode hidle
  exact ⟨i, hi, filter_opcodeTable_of_decode hi⟩

/-- Settles O12: the word decodes to the instruction, and the placed access or turn runs what it decodes to. -/
theorem placedWordRunsNext : Obligations.PlacedWordRunsNext := by
  intro s i hwf
  have hdec := decode_encode hwf
  generalize encode i = c at hdec ⊢
  cases CodeWord.fits_of_decode hdec with
  | how w =>
    cases (decode_how w).symm.trans hdec
    exact ⟨{ s with rst := false }, rfl, rfl, rfl, rfl, rfl, rfl, rfl, rfl, rfl, fun _ => rfl,
      fun hseq => absurd hseq (ne_true_of_eq_false (decodeHow_isSeq w)), step_placed_access w s⟩
  | ridx j =>
    cases (decode_ridx j).symm.trans hdec
    exact ⟨{ s with rst := false, fsm := .round, i := j }, rfl, rfl, rfl, rfl, rfl, rfl, rfl, rfl, rfl,
      fun hseq => absurd hseq (ne_false_of_eq_true (decodeRound_isSeq j)),
      fun _ => ⟨_, exec_decodeRound (s := { s with rst := false, fsm := .round, i := j }) rfl⟩,
      step_placed_round j s⟩
  | fsm x =>
    have hx := (decode_fsm x).symm.trans hdec
    exact ⟨{ s with rst := false, memAck := true, fsm := fsmOfCode x }, rfl, rfl, rfl, rfl, rfl, rfl, rfl, rfl, rfl,
      fun hseq => absurd hseq (ne_false_of_eq_true (decodeFsm_isSeq hx)),
      fun _ => exec_of_decodeFsm hx rfl, step_placed_fsm hx s⟩

/-- Settles O4: the decoder on eight words. -/
theorem writtenWordsDecode : Obligations.WrittenWordsDecode :=
  ⟨rfl, rfl, rfl, rfl, rfl, rfl, rfl, rfl⟩

/-- Settles O5: an assembled access decodes by its register's index. -/
theorem pseudoInstructionsExpand : Obligations.PseudoInstructionsExpand := by
  intro a len
  have hbase : (expandPseudo (.setBase a)).map decodeHow = [.wrMsgBase a] :=
    congrArg ([·]) (decodeHow_asmWrite .msgBase a)
  have hlen : (expandPseudo (.setLen len)).map decodeHow = [.wrMsgLenLo (lenLo len), .wrMsgLenHi (lenHi len)] :=
    congrArg₂ ([·, ·]) (decodeHow_asmWrite .msgLenLo _) (decodeHow_asmWrite .msgLenHi _)
  exact ⟨rfl, rfl, rfl, rfl, hbase, hlen, rfl, rfl⟩

end Sys2Proof.Proofs

/-! PROOFS of the family 40_alu.md. The 32-bit ALU bit by bit (R101 to R105), its sum, complement and rotation by
value (R100, R104, R105), and the round functions over these bits (R107 to R110). -/

namespace Sys2Proof.Machine

/-! ### Sum and complement by value (R100, R104) -/

theorem add32_toNat (x y : Word) : (add32 x y).toNat = (x.toNat + y.toNat) % 2 ^ 32 :=
  BitVec.toNat_add x y

theorem not32_toNat (x : Word) : (not32 x).toNat = 0xFFFFFFFF - x.toNat :=
  BitVec.toNat_not

/-! ### The bitwise operations bit by bit (R101 to R104) -/

@[simp] theorem and32_getLsbD (x y : Word) (n : Nat) :
    (and32 x y).getLsbD n = (x.getLsbD n && y.getLsbD n) :=
  BitVec.getLsbD_and

@[simp] theorem or32_getLsbD (x y : Word) (n : Nat) :
    (or32 x y).getLsbD n = (x.getLsbD n || y.getLsbD n) :=
  BitVec.getLsbD_or

@[simp] theorem xor32_getLsbD (x y : Word) (n : Nat) :
    (xor32 x y).getLsbD n = Bool.xor (x.getLsbD n) (y.getLsbD n) :=
  BitVec.getLsbD_xor

/-- The bound is needed: above bit 31 the complement, too, reads as 0. -/
theorem not32_getLsbD (x : Word) {n : Nat} (hn : n < 32) : (not32 x).getLsbD n = !x.getLsbD n := by
  rw [not32, BitVec.getLsbD_not, decide_eq_true hn, Bool.true_and]

/-! ### The rotation (R105) -/

/-- The bits the left shift keeps stand at n and above, the bits it drops come back below n: so the two parts share
no bit, and their disjunction is their sum. -/
theorem rotl32_toNat (x : Word) {n : Nat} (hn : n < 32) :
    (rotl32 x n).toNat = x.toNat * 2 ^ n % 2 ^ 32 + x.toNat / 2 ^ (32 - n) := by
  have hpow : 2 ^ (32 - n) * 2 ^ n = 2 ^ 32 := Nat.pow_sub_mul_pow 2 hn.le
  have hkept : x.toNat * 2 ^ n % 2 ^ 32 = (x.toNat % 2 ^ (32 - n)) <<< n := by
    rw [← hpow, Nat.mul_mod_mul_right, Nat.shiftLeft_eq]
  have hback : x.toNat / 2 ^ (32 - n) < 2 ^ n := Nat.div_lt_of_lt_mul (hpow ▸ x.isLt)
  rw [rotl32, BitVec.toNat_rotateLeft, Nat.mod_eq_of_lt hn, Nat.shiftRight_eq_div_pow, Nat.shiftLeft_eq, hkept,
    Nat.shiftLeft_add_eq_or_of_lt hback]

theorem rotl32_getLsbD (x : Word) {n k : Nat} (hn : n < 32) (hk : k < 32) :
    (rotl32 x n).getLsbD k = x.getLsbD ((k + 32 - n) % 32) := by
  rw [rotl32, BitVec.getLsbD_rotateLeft_of_le hn]
  by_cases hkn : k < n
  · have hpos : (k + 32 - n) % 32 = 32 - n + k := by omega
    rw [hpos, decide_eq_true hkn, cond_true]
  · have hpos : (k + 32 - n) % 32 = k - n := by omega
    rw [hpos, decide_eq_false hkn, cond_false, decide_eq_true hk, Bool.true_and]

theorem rotl32_mod (x : Word) (n : Nat) : rotl32 x (n % 32) = rotl32 x n :=
  BitVec.rotateLeft_mod_eq_rotateLeft

@[simp] theorem rotl32_zero (x : Word) : rotl32 x 0 = x := by
  refine BitVec.eq_of_getLsbD_eq fun k hk => ?_
  rw [rotl32_getLsbD x (by decide) hk, Nat.sub_zero, Nat.add_mod_right, Nat.mod_eq_of_lt hk]

/-! ### The round functions bit by bit (R107 to R110) -/

section
variable (b c d : Word) {n : Nat}

/-- F: b selects c or d. -/
theorem fnF_getLsbD (hn : n < 32) :
    (fnF b c d).getLsbD n = if b.getLsbD n then c.getLsbD n else d.getLsbD n := by
  rw [fnF, or32_getLsbD, and32_getLsbD, and32_getLsbD, not32_getLsbD b hn]
  cases b.getLsbD n <;> simp

/-- G is F with d selecting, b and c selected (R108). -/
theorem fnG_eq_fnF : fnG b c d = fnF d b c := rfl

/-- H: the parity of the three bits. -/
theorem fnH_getLsbD :
    (fnH b c d).getLsbD n = Bool.xor (Bool.xor (b.getLsbD n) (c.getLsbD n)) (d.getLsbD n) := by
  rw [fnH, xor32_getLsbD, xor32_getLsbD]

/-- I: c against (b or not d). -/
theorem fnI_getLsbD (hn : n < 32) :
    (fnI b c d).getLsbD n = Bool.xor (c.getLsbD n) (b.getLsbD n || !d.getLsbD n) := by
  rw [fnI, xor32_getLsbD, or32_getLsbD, not32_getLsbD d hn]

end

end Sys2Proof.Machine

namespace Sys2Proof.Proofs

open Sys2Proof.Machine

/-- Settles O37: by value the two parts of the rotated word add up, by bit each stands where R105 says; the amount
enters modulo 32. -/
theorem rotateLeftArithmetic : Obligations.RotateLeftArithmetic := by
  intro x n
  refine ⟨fun _ hn => ?_, (rotl32_mod x n).symm, rotl32_zero x⟩
  have hlt : n < 32 := Nat.lt_succ_of_le hn
  exact ⟨rotl32_toNat x hlt, fun _ hk => rotl32_getLsbD x hlt hk⟩

/-- Settles O38: each operation by value or bit by bit. -/
theorem aluPrimitives : Obligations.AluPrimitives := fun x y =>
  ⟨add32_toNat x y, not32_toNat x, fun n _ => ⟨and32_getLsbD x y n, or32_getLsbD x y n, xor32_getLsbD x y n⟩⟩

/-- Settles O39: each function bit by bit, G as F with its arguments turned. -/
theorem roundFunctionsBitByBit : Obligations.RoundFunctionsBitByBit := by
  intro b c d n hn
  refine ⟨fnF_getLsbD b c d hn, ?_, fnH_getLsbD b c d, fnI_getLsbD b c d hn⟩
  rw [fnG_eq_fnF]
  exact fnF_getLsbD d b c hn

end Sys2Proof.Proofs

/-! PROOFS of the family 41_padding.md, the padded stream. Its four cases, the place of the length field, and
its bytes as words (R131, R132, R135). -/

namespace Sys2Proof.Machine

variable (len : DWord) (msg : Nat → Byte)

/-- The length field stands behind the message and its byte 0x80 (R151). -/
theorem length_before_lengthField : len.toNat < 64 * nblk len - 8 := by
  unfold nblk
  omega

theorem padded_marker : padded len msg len.toNat = 0x80#8 := by
  rw [padded_padding msg (Nat.le_refl _), padByte, if_pos rfl]

theorem padded_zeroFill {j : Nat} (hl : len.toNat < j) (hz : j < 64 * nblk len - 8) :
    padded len msg j = 0x00#8 := by
  rw [padded_padding msg hl.le, padByte, if_neg hl.ne', if_pos hz]

theorem padded_lengthField (k : Nat) : padded len msg (64 * nblk len - 8 + k) = lenByte len k := by
  have hlen := length_before_lengthField len
  rw [padded_padding msg (by omega), padByte, if_neg (by omega), if_neg (by omega), Nat.add_sub_cancel_left]

/-- Two messages with the same bytes have the same padded stream. -/
theorem padded_congr {len : DWord} {p q : Nat → Byte} (h : ∀ j, j < len.toNat → p j = q j) :
    padded len p = padded len q := by
  funext j
  unfold padded
  split
  · exact h j ‹_›
  · rfl

/-- A field of bits of the length field's value (R131). -/
theorem lenBits_extract_toNat (n w : Nat) :
    ((lenBits len).extractLsb' n w).toNat = 8 * len.toNat % 2 ^ 64 / 2 ^ n % 2 ^ w := by
  rw [BitVec.extractLsb'_toNat, lenBits, BitVec.toNat_ofNat, Nat.shiftRight_eq_div_pow]

/-- Four neighbouring bytes of a value, assembled, are its 32 bits from the first of them on (R155). -/
theorem le32_extractLsb' (x : DWord) (n : Nat) :
    le32 (x.extractLsb' n 8) (x.extractLsb' (n + 8) 8) (x.extractLsb' (n + 16) 8) (x.extractLsb' (n + 24) 8) =
      x.extractLsb' n 32 := by
  unfold le32
  rw [BitVec.extractLsb'_append_extractLsb'_eq_extractLsb' (start₁ := n + 16) (by omega),
    BitVec.extractLsb'_append_extractLsb'_eq_extractLsb' (start₁ := n + 8) (by omega),
    BitVec.extractLsb'_append_extractLsb'_eq_extractLsb' (start₁ := n) (by omega)]

/-- Words 14 and 15 of the last block are the halves of the length field (R135). -/
theorem blockWord_lengthField (h : Nat) :
    blockWord (padded len msg) (nblk len - 1) (14 + h) = (lenBits len).extractLsb' (32 * h) 32 := by
  have hpos : 64 * (nblk len - 1) + 4 * (14 + h) = 64 * nblk len - 8 + 4 * h := by
    have := nblk_pos len
    omega
  rw [blockWord, hpos]
  simp only [Nat.add_assoc, padded_lengthField, lenByte, ← le32_extractLsb', Nat.mul_add, ← Nat.mul_assoc]

end Sys2Proof.Machine

namespace Sys2Proof.Proofs

open Sys2Proof.Machine

/-- Settles O42: the four cases of the padded stream, and words 14 and 15 of the last block as the halves of the length
field. -/
theorem paddedStreamAndLengthField : Obligations.PaddedStreamAndLengthField := by
  intro len msg
  refine ⟨fun j hj => padded_message msg hj, padded_marker len msg, fun j hl hz => padded_zeroFill len msg hl hz,
    fun k _ => ?_, ?_, ?_⟩
  · rw [padded_lengthField, lenByte, lenBits_extract_toNat]
  · rw [blockWord_lengthField len msg 0, lenBits_extract_toNat, Nat.mul_zero, Nat.pow_zero, Nat.div_one]
  · rw [blockWord_lengthField len msg 1, lenBits_extract_toNat, Nat.mul_one]
    omega

end Sys2Proof.Proofs

/-! PROOFS of the family 41_padding.md, the block and the chaining value. What a step can do to the message and the
block being worked on, said once, and what each of these things keeps. -/

namespace Sys2Proof.Machine

open Sys2Proof.Safety

variable {s t : State}

/-! ### What a step does to the message and its block -/

/-- The accumulator, the snapshot, the block buffer, blk, fsm, the configuration, the read in progress, the memory and
the race record; every other field at a fixed value. The invariants of the block read no other field. -/
def State.messageView (s : State) : State :=
  { s with
    i := 0#6, done := false, err := false, errCode := 0#4, rdata := 0#32, rst := false, memAck := false,
    inputs := [], draws := 0, reads := [] }

theorem raiseErr_messageView (code : BitVec 4) (s : State) : (raiseErr code s).messageView = s.messageView := by
  unfold raiseErr
  split <;> rfl

/-- The host overwrites a byte while BUSY: the byte it held goes into the race record. -/
def overwriteByte (a : Nat) (b : Byte) (s : State) : State :=
  { s with mem := s.mem.write a b, raced := s.raced ++ [(a, s.mem.read a)] }

/-- Everything a step can do to the message and its block. -/
inductive MessageEffect (s : State) : State → Prop
  | idle {t : State} (hf : t.fsm = .idle) : MessageEffect s t
  | same {t : State} (h : t.messageView = s.messageView) : MessageEffect s t
  | start : MessageEffect s (beginMessage s)
  | overwrite (hb : s.busy = true) (a : Nat) (b : Byte) : MessageEffect s (overwriteByte a b s)
  | read (hf : s.fsm = .load) : MessageEffect s (readByte s)
  | load (hf : s.fsm = .load) : MessageEffect s (loadBlock s)
  | round (hf : s.fsm = .round) (fn : Word → Word → Word → Word) (g : BitVec 4) :
      MessageEffect s (roundStep fn g s)
  | finish (hf : s.fsm = .finish) (hl : s.lastBlock = false) : MessageEffect s (finishBlock s)

theorem AccessEffect.message_effect (h : AccessEffect s t) : MessageEffect s t := by
  cases h with
  | nothing | answer | clear => exact .same rfl
  | reserved | startRefused | writeRefused => exact .same (raiseErr_messageView _ s)
  | start => exact .start
  | abort => exact .idle rfl
  | base hb | length hb => exact .idle ((not_busy_iff s).1 hb)

theorem TurnEffect.message_effect (h : TurnEffect s t) : MessageEffect s t := by
  cases h with
  | waits | quiet => exact .same rfl
  | load hf => exact .load hf
  | round hf => exact .round hf _ _
  | finish hf =>
    cases hl : s.lastBlock with
    | true => exact .idle (by simp [hl])
    | false => exact .finish hf hl

theorem StepEffect.message_effect (h : StepEffect s t) : MessageEffect s.rest t := by
  cases h with
  | access _ h => exact h.message_effect
  | turn h => exact h.message_effect
  | ignored _ w => cases w <;> exact .same rfl
  | memWrite a b =>
    cases hb : s.busy with
    | true => exact .overwrite (s := s.rest) hb a b
    | false => exact .idle ((not_busy_iff s).1 hb)
  | rst level =>
    cases level with
    | false => exact .same rfl
    | true => exact .idle rfl
  | port hq =>
    obtain ⟨-, hf, -⟩ := (memReq_iff s.rest).1 hq
    exact .read hf
  | answer | portQuiet => exact .same rfl

/-- A ROUND step stays with its block: it writes the accumulator and the round counter, and goes on in ROUND or to
FINISH. -/
theorem roundStep_same_block (hf : s.fsm = .round) (fn : Word → Word → Word → Word) (g : BitVec 4) :
    ∃ x i f, (f = .round ∨ f = .finish) ∧ roundStep fn g s = { s with acc := x, i := i, fsm := f } := by
  unfold roundStep nextRound
  split
  · exact ⟨_, _, .finish, .inr rfl, rfl⟩
  · exact ⟨_, _, s.fsm, .inl hf, rfl⟩

/-! ### The padding bytes in M (R132, R153) -/

theorem paddingInBlock_loadBlock (s : State) : PaddingInBlock (loadBlock s) := by
  intro _ k n hk hn hpad
  rw [loadBlock_blk, loadBlock_msgLen, Nat.add_assoc] at hpad ⊢
  rw [byteOf_loadBlock s hk hn, State.stream, padded_padding _ hpad]

theorem paddingInBlock_of_no_block (hr : t.fsm ≠ .round) (hf : t.fsm ≠ .finish) : PaddingInBlock t :=
  fun h => absurd h (not_or.2 ⟨hr, hf⟩)

theorem MessageEffect.keeps_paddingInBlock (h : MessageEffect s t) (hs : PaddingInBlock s) : PaddingInBlock t := by
  cases h with
  | idle hf => exact paddingInBlock_of_no_block (by simp [hf]) (by simp [hf])
  | same h =>
    have ht : PaddingInBlock t.messageView := h ▸ hs
    exact ht
  | start => exact paddingInBlock_of_no_block (by simp) (by simp)
  | overwrite | read => exact hs
  | load => exact paddingInBlock_loadBlock s
  | round hf fn g =>
    obtain ⟨x, i, f, -, h⟩ := roundStep_same_block hf fn g
    rw [h]
    exact fun _ => hs (.inl hf)
  | finish _ hl => exact paddingInBlock_of_no_block (by simp [hl]) (by simp [hl])

/-! ### The message bytes taken (R60 item 4) -/

/-- A byte overwritten stays one its address has held since START. -/
theorem heldSinceStart_overwrite {j : Nat} {v : Byte} (h : HeldSinceStart s j v) (a : Nat) (b : Byte) :
    HeldSinceStart (overwriteByte a b s) j v := by
  obtain rfl | hraced := h
  · by_cases ha : a = s.msgAddr j
    · subst ha
      exact .inr (List.mem_append_right _ (List.mem_singleton.2 rfl))
    · exact .inl (Memory.read_write_other s.mem b (Ne.symm ha)).symm
  · exact .inr (List.mem_append_left _ hraced)

/-- A message byte that LOAD takes is one its address has held since START: it was when it was read at the port, or is
read now. -/
theorem heldSinceStart_stream (hs : HeldBytes s) (hf : s.fsm = .load) {q : Nat}
    (hmsg : 64 * s.blk.toNat + q < s.msgLen.toNat) :
    HeldSinceStart s (64 * s.blk.toNat + q) (s.stream (64 * s.blk.toNat + q)) := by
  obtain ⟨hfetched, -⟩ := hs
  rcases Nat.lt_or_ge q s.fetched.length with hq | hq
  · rw [stream_of_fetched hq hmsg]
    exact hfetched hf q hq
  · exact stream_heldSinceStart hq hmsg

theorem heldBytes_of_idle (hf : t.fsm = .idle) : HeldBytes t :=
  ⟨fun h => by simp [hf] at h, fun h => by simp [hf] at h⟩

theorem heldBytes_of_load (hf : t.fsm = .load)
    (h : ∀ q, (hq : q < t.fetched.length) → HeldSinceStart t (64 * t.blk.toNat + q) t.fetched[q]) : HeldBytes t :=
  ⟨fun _ => h, fun h => by simp [hf] at h⟩

theorem heldBytes_overwrite (hs : HeldBytes s) (a : Nat) (b : Byte) : HeldBytes (overwriteByte a b s) := by
  obtain ⟨hfetched, hblock⟩ := hs
  exact ⟨fun hf q hq => heldSinceStart_overwrite (hfetched hf q hq) a b,
    fun hf k n hk hn hmsg => heldSinceStart_overwrite (hblock hf k n hk hn hmsg) a b⟩

theorem heldBytes_readByte (hs : HeldBytes s) (hf : s.fsm = .load) : HeldBytes (readByte s) := by
  obtain ⟨hfetched, -⟩ := hs
  refine heldBytes_of_load hf fun q hq => ?_
  rcases Nat.lt_or_ge q s.fetched.length with hlt | hge
  · have hold : (readByte s).fetched[q] = s.fetched[q] := List.getElem_append_left hlt
    rw [hold]
    exact hfetched hf q hlt
  · obtain rfl : q = s.fetched.length := by
      rw [readByte_fetched, List.length_append, List.length_singleton] at hq
      omega
    have hnew : (readByte s).fetched[s.fetched.length] = s.msgByte s.portPos := List.getElem_concat_length rfl _
    rw [hnew]
    exact msgByte_mem s s.portPos

theorem heldBytes_loadBlock (hs : HeldBytes s) (hf : s.fsm = .load) : HeldBytes (loadBlock s) := by
  refine ⟨fun h => by simp at h, fun _ k n hk hn hmsg => ?_⟩
  rw [loadBlock_blk, loadBlock_msgLen, Nat.add_assoc] at hmsg
  rw [byteOf_loadBlock s hk hn, loadBlock_blk, Nat.add_assoc]
  have hheld := heldSinceStart_stream hs hf hmsg
  rw [loadBlock_eq]
  exact hheld

theorem MessageEffect.keeps_heldBytes (h : MessageEffect s t) (hport : FetchedInBlock s) (hs : HeldBytes s) :
    HeldBytes t := by
  cases h with
  | idle hf => exact heldBytes_of_idle hf
  | same h =>
    have ht : HeldBytes t.messageView := h ▸ hs
    exact ht
  | start => exact heldBytes_of_load rfl nofun
  | overwrite _ a b => exact heldBytes_overwrite hs a b
  | read hf => exact heldBytes_readByte hs hf
  | load hf => exact heldBytes_loadBlock hs hf
  | round hf fn g =>
    obtain ⟨-, hblock⟩ := hs
    obtain ⟨x, i, f, hf', h⟩ := roundStep_same_block hf fn g
    rw [h]
    exact ⟨fun h : f = .load => by simp [h] at hf', fun _ => hblock (.inl hf)⟩
  | finish hf hl =>
    obtain ⟨hnone, -⟩ := hport
    have hfetched : s.fetched = [] := hnone (by simp [hf])
    exact heldBytes_of_load (by simp [hl]) fun q hq => by simp [hfetched] at hq

/-! ### The chaining value and the block (R152, R178) -/

/-- With no message byte overwritten, the only byte a message address has held since START is the one it holds. -/
theorem eq_read_of_unraced {j : Nat} {v : Byte} (h : HeldSinceStart s j v) (hu : Unraced s)
    (hj : j < s.msgLen.toNat) : v = s.mem.read (s.msgAddr j) :=
  h.resolve_right fun hraced => hu _ hraced j hj rfl

/-- With no message byte overwritten, LOAD takes the block of the message the memory holds. -/
theorem blockWords_stream_unraced (hs : HeldBytes s) (hf : s.fsm = .load) (hu : Unraced s) :
    blockWords s.stream s.blk.toNat = blockWords (messageStream s) s.blk.toNat := by
  refine blockWords_congr fun j hj _ => ?_
  obtain ⟨q, rfl⟩ := Nat.exists_eq_add_of_le hj
  rcases Nat.lt_or_ge (64 * s.blk.toNat + q) s.msgLen.toNat with hmsg | hpad
  · rw [messageStream, padded_message _ hmsg]
    exact eq_read_of_unraced (heldSinceStart_stream hs hf hmsg) hu hmsg
  · rw [messageStream, State.stream, padded_padding _ hpad, padded_padding _ hpad]

/-- An overwritten byte outside the message leaves the message as it was. -/
theorem messageStream_overwrite {a : Nat} {b : Byte} (hu : Unraced (overwriteByte a b s)) :
    messageStream (overwriteByte a b s) = messageStream s := by
  refine padded_congr (len := s.msgLen) fun j hj => ?_
  have ha : a ≠ s.msgAddr j := hu (a, s.mem.read a) (by simp [overwriteByte]) j hj
  exact Memory.read_write_other s.mem b ha.symm

/-- At FINISH the snapshot and the accumulator add up to the next chaining value of the message. -/
theorem addChain_at_finish (hf : s.fsm = .finish) (hrounds : RoundsDone s) (hs : ChainInOrder s) (hu : Unraced s) :
    addChain s.snap s.acc = chainOf (messageStream s) (s.blk.toNat + 1) := by
  obtain ⟨-, hfinish⟩ := hrounds
  obtain ⟨-, hacc⟩ := hfinish hf
  obtain ⟨-, hblock⟩ := hs hu
  obtain ⟨hsnap, hm⟩ := hblock (.inr hf)
  rw [hacc, chainOf_succ, ← hsnap, ← hm, compress]

/-- blk does not wrap at a block of the message: NBLK is at most 2^58 + 1 (R26, R151). -/
theorem blk_succ_toNat (hlt : s.blk.toNat < nblk s.msgLen) : (s.blk + 1#64).toNat = s.blk.toNat + 1 := by
  unfold nblk at hlt
  have hlen := s.msgLen.isLt
  rw [BitVec.toNat_add, BitVec.toNat_ofNat, Nat.mod_eq_of_lt (by omega)]

theorem chainInOrder_of_idle (hf : t.fsm = .idle) : ChainInOrder t :=
  fun _ => ⟨fun h => by simp [hf] at h, fun h => by simp [hf] at h⟩

theorem chainInOrder_of_load (hf : t.fsm = .load)
    (h : Unraced t → t.acc = chainOf (messageStream t) t.blk.toNat) : ChainInOrder t :=
  fun hu => ⟨fun _ => h hu, fun h => by simp [hf] at h⟩

theorem chainInOrder_overwrite (hs : ChainInOrder s) (a : Nat) (b : Byte) : ChainInOrder (overwriteByte a b s) := by
  intro hu
  rw [messageStream_overwrite hu]
  exact hs fun c hc => hu c (List.mem_append_left _ hc)

theorem chainInOrder_loadBlock (hs : ChainInOrder s) (hheld : HeldBytes s) (hf : s.fsm = .load) :
    ChainInOrder (loadBlock s) := by
  intro hu
  rw [loadBlock_eq] at hu
  obtain ⟨hload, -⟩ := hs hu
  have hstream : messageStream (loadBlock s) = messageStream s := by
    rw [loadBlock_eq]
    rfl
  rw [hstream, loadBlock_snap, loadBlock_m, loadBlock_blk]
  exact ⟨fun h => by simp at h, fun _ => ⟨hload hf, blockWords_stream_unraced hheld hf hu⟩⟩

theorem chainInOrder_finishBlock (hs : ChainInOrder s) (hrounds : RoundsDone s) (hf : s.fsm = .finish)
    (hl : s.lastBlock = false) (hlt : s.blk.toNat < nblk s.msgLen) : ChainInOrder (finishBlock s) := by
  refine chainInOrder_of_load (by simp [hl]) fun hu => ?_
  rw [finishBlock_acc, finishBlock_blk, blk_succ_toNat hlt]
  exact addChain_at_finish hf hrounds hs hu

theorem MessageEffect.keeps_chainInOrder (h : MessageEffect s t) (hblk : BlockInMessage s) (hheld : HeldBytes s)
    (hrounds : RoundsDone s) (hs : ChainInOrder s) : ChainInOrder t := by
  cases h with
  | idle hf => exact chainInOrder_of_idle hf
  | same h =>
    have ht : ChainInOrder t.messageView := h ▸ hs
    exact ht
  | start => exact chainInOrder_of_load rfl fun _ => rfl
  | overwrite _ a b => exact chainInOrder_overwrite hs a b
  | read => exact hs
  | load hf => exact chainInOrder_loadBlock hs hheld hf
  | round hf fn g =>
    obtain ⟨x, i, f, hf', h⟩ := roundStep_same_block hf fn g
    rw [h]
    intro hu
    obtain ⟨-, hblock⟩ := hs hu
    exact ⟨fun h : f = .load => by simp [h] at hf', fun _ => hblock (.inl hf)⟩
  | finish hf hl => exact chainInOrder_finishBlock hs hrounds hf hl (hblk ((busy_iff s).2 (by simp [hf])))

/-! ### DONE and the digest (R21, R34, R60 item 3) -/

theorem AccessEffect.done_cases (h : AccessEffect s t) :
    t.done = false ∨ (t.done = s.done ∧ t.acc = s.acc) := by
  cases h with
  | start | abort => exact .inl rfl
  | nothing | answer | clear | base | length => exact .inr ⟨rfl, rfl⟩
  | reserved | startRefused | writeRefused => exact .inr ⟨raiseErr_done s _, raiseErr_acc s _⟩

theorem TurnEffect.done_cases (h : TurnEffect s t) :
    (t.done = s.done ∧ (t.acc = s.acc ∨ s.busy = true)) ∨
    (s.fsm = .finish ∧ s.blk.toNat + 1 = nblk s.msgLen ∧ t.acc = addChain s.snap s.acc) := by
  cases h with
  | waits | quiet => exact .inl ⟨rfl, .inl rfl⟩
  | load => exact .inl ⟨loadBlock_done s, .inl (loadBlock_acc s)⟩
  | round hf => exact .inl ⟨roundStep_done s _ _, .inr ((busy_iff s).2 (by simp [hf]))⟩
  | finish hf =>
    cases hl : s.lastBlock with
    | true => exact .inr ⟨hf, of_decide_eq_true hl, rfl⟩
    | false => exact .inl ⟨by simp [hl], .inr ((busy_iff s).2 (by simp [hf]))⟩

/-- A step clears DONE, or keeps it, A..D changing only while BUSY, or is the FINISH of the last block. -/
theorem StepEffect.done_cases (h : StepEffect s t) :
    t.done = false ∨ (t.done = s.done ∧ (t.acc = s.acc ∨ s.busy = true)) ∨
    (s.fsm = .finish ∧ s.blk.toNat + 1 = nblk s.msgLen ∧ t.acc = addChain s.snap s.acc) := by
  cases h with
  | access _ h => exact h.done_cases.imp_right fun ⟨hdone, hacc⟩ => .inl ⟨hdone, .inl hacc⟩
  | turn h => exact .inr h.done_cases
  | ignored _ w => cases w <;> exact .inr (.inl ⟨rfl, .inl rfl⟩)
  | rst level =>
    cases level with
    | false => exact .inr (.inl ⟨rfl, .inl rfl⟩)
    | true => exact .inl rfl
  | memWrite | answer | port | portQuiet => exact .inr (.inl ⟨rfl, .inl rfl⟩)

/-- The step that sets DONE leaves the digest of the message in A..D. -/
theorem StepEffect.digest_at_done (h : StepEffect s t) (hrounds : RoundsDone s) (hs : ChainInOrder s) (hu : Unraced s)
    (hbefore : s.done = false) (hafter : t.done = true) :
    t.acc = digestOf s.msgLen fun j => s.mem.read (s.msgAddr j) := by
  obtain hclear | ⟨hkept, -⟩ | ⟨hf, hlast, hacc⟩ := h.done_cases
  · simp [hafter] at hclear
  · simp [hafter, hbefore] at hkept
  · rw [hacc, addChain_at_finish hf hrounds hs hu, hlast]
    rfl

/-- While DONE stays 1, A..D stay: with DONE = 1 the core is not BUSY (R34). -/
theorem StepEffect.acc_kept_while_done (h : StepEffect s t) (hs : StatusLegal s) (hbefore : s.done = true)
    (hafter : t.done = true) : t.acc = s.acc := by
  obtain ⟨-, -, hbusy⟩ := hs
  have hidle : ¬ s.busy = true := fun hb => by simp [hbusy hb] at hbefore
  obtain hclear | ⟨-, hacc⟩ | ⟨hf, -, -⟩ := h.done_cases
  · simp [hafter] at hclear
  · exact hacc.resolve_right hidle
  · exact absurd ((busy_iff s).2 (by simp [hf])) hidle

end Sys2Proof.Machine

namespace Sys2Proof.Proofs

open Sys2Proof.Machine Sys2Proof.Safety

/-- Settles O57: each invariant through what a step can do to the message and its block, and the two clauses on DONE
through what it can do to DONE. -/
theorem stepKeepsTheBlockAndTheChain : Obligations.StepKeepsTheBlockAndTheChain := by
  intro s t hstep
  have heff := step_effect hstep
  have hmsg := heff.message_effect
  exact ⟨hmsg.keeps_paddingInBlock, hmsg.keeps_heldBytes,
    fun hblk hheld hrounds hs => ⟨hmsg.keeps_chainInOrder hblk hheld hrounds hs, heff.digest_at_done hrounds hs⟩,
    heff.acc_kept_while_done⟩

end Sys2Proof.Proofs

/-! PROOFS of the family 42_block_scheduler.md, the rounds of a block. The accumulator follows the compression of the
snapshot, step by step (R157, R175, R177). -/

namespace Sys2Proof.Machine

open Sys2Proof.Safety

variable {s t : State}

theorem roundsDone_of_no_rounds (hr : t.fsm ≠ .round) (hf : t.fsm ≠ .finish) : RoundsDone t :=
  ⟨fun h => absurd h hr, fun h => absurd h hf⟩

/-- An error says nothing about the rounds. -/
theorem roundsDone_raiseErr (code : BitVec 4) (hs : RoundsDone s) : RoundsDone (raiseErr code s) := by
  cases herr : s.err with
  | true => rwa [raiseErr_of_err code herr]
  | false => rwa [raiseErr_of_clear code herr]

/-- A LOAD leaves the snapshot and the accumulator equal, with no round run. -/
theorem roundsDone_loadBlock (s : State) : RoundsDone (loadBlock s) := by
  refine ⟨fun _ => ?_, fun h => by simp at h⟩
  rw [loadBlock_acc, loadBlock_snap, loadBlock_i, BitVec.toNat_zero, roundsOn_zero]

/-- A ROUND step runs one round more on the block buffer. -/
theorem roundStep_acc_of_roundsOn {h : Chain} (hacc : s.acc = roundsOn s.m h s.i.toNat) :
    (roundStep (roundFn s.i) (gIndex s.i) s).acc = roundsOn s.m h (s.i.toNat + 1) := by
  rw [roundStep_acc, hacc, roundsOn_succ, BitVec.ofNat_toNat, BitVec.setWidth_eq, roundOn]

/-- The round counter does not wrap before round 63. -/
theorem round_succ_toNat {i : BitVec 6} (h : i ≠ 63#6) : (i + 1#6).toNat = i.toNat + 1 := by
  bv_omega

theorem roundsDone_roundStep (hs : RoundsDone s) (hf : s.fsm = .round) :
    RoundsDone (roundStep (roundFn s.i) (gIndex s.i) s) := by
  obtain ⟨hround, -⟩ := hs
  have hacc := roundStep_acc_of_roundsOn (hround hf)
  unfold RoundsDone
  rw [hacc, roundStep_fsm, roundStep_m, roundStep_snap, roundStep_i]
  by_cases hlast : s.i = 63#6
  · simp [hlast, roundsPerBlock]
  · simp [hlast, hf, round_succ_toNat hlast]

theorem AccessEffect.keeps_roundsDone (h : AccessEffect s t) (hs : RoundsDone s) : RoundsDone t := by
  cases h with
  | nothing | answer | clear | base | length => exact hs
  | reserved | startRefused | writeRefused => exact roundsDone_raiseErr _ hs
  | start | abort => exact roundsDone_of_no_rounds (by simp) (by simp)

theorem TurnEffect.keeps_roundsDone (h : TurnEffect s t) (hs : RoundsDone s) : RoundsDone t := by
  cases h with
  | waits | quiet => exact hs
  | load => exact roundsDone_loadBlock s
  | round hf => exact roundsDone_roundStep hs hf
  | finish => cases hl : s.lastBlock <;> exact roundsDone_of_no_rounds (by simp [hl]) (by simp [hl])

end Sys2Proof.Machine

namespace Sys2Proof.Proofs

open Sys2Proof.Machine Sys2Proof.Safety

/-- Settles O55: LOAD begins the rounds, a ROUND step runs one more, and of the other moves those that touch the
accumulator leave ROUND and FINISH. -/
theorem stepKeepsRoundsDone : Obligations.StepKeepsRoundsDone := by
  intro s t hs hstep
  have hrest : RoundsDone s.rest := hs
  cases step_effect hstep with
  | access _ h => exact h.keeps_roundsDone hrest
  | turn h => exact h.keeps_roundsDone hrest
  | ignored _ w => cases w <;> exact hrest
  | rst level =>
    cases level with
    | false => exact hrest
    | true => exact ⟨nofun, nofun⟩
  | memWrite | answer | port | portQuiet => exact hrest

end Sys2Proof.Proofs

/-! PROOFS of the family 42_block_scheduler.md, the blocks of a message. What a LOAD reads, the state one undisturbed
block leads to, and the states between the blocks of an undisturbed message (R153, R157, R178). -/

namespace Sys2Proof.Machine

open Sys2Proof.Safety

variable {s : State}

/-! ### Runs -/

/-- A run and one step more. -/
theorem run_then_step {n : Nat} {t u : State} (hrun : Host.Core.run Sys2Proof.core n s = .next t)
    (hstep : step t = .next u) : Host.Core.run Sys2Proof.core (n + 1) s = .next u :=
  (run_next n hrun).trans hstep

/-- A run of one step. -/
theorem run_one {t : State} (hstep : step s = .next t) : Host.Core.run Sys2Proof.core 1 s = .next t :=
  run_then_step rfl hstep

/-- What every step keeps, a run keeps. -/
theorem run_keeps (M : Host.Core) {P : M.State → Prop} (hP : ∀ s t, P s → M.step s = .next t → P t) {n : Nat}
    {s t : M.State} (hrun : M.run n s = .next t) (hs : P s) : P t := by
  induction n generalizing s with
  | zero =>
    cases hrun
    exact hs
  | succ n ih =>
    rw [Host.Core.run] at hrun
    split at hrun
    · exact ih hrun (hP _ _ hs ‹_›)
    · cases hrun
    · cases hrun

/-! ### A block with no move pending -/

/-- The state s with A..D = x and round index j. -/
def State.atRound (x : Chain) (j : BitVec 6) (s : State) : State := { s with acc := x, i := j }

/-- The state s in FINISH with A..D = x. -/
def State.atFinish (x : Chain) (s : State) : State := { s with acc := x, i := 63#6, fsm := .finish }

/-- A ROUND step writes the accumulator and moves the round counter on. -/
theorem step_atRound (hin : s.inputs = []) (hr : s.rst = false) (hf : s.fsm = .round) (x : Chain) (j : BitVec 6) :
    ∃ y, step (s.atRound x j) = .next (nextRound (s.atRound y j)) :=
  ⟨_, step_round (s := s.atRound x j) hin hr hf⟩

theorem nextRound_atRound (x : Chain) {j : BitVec 6} (hj : j ≠ 63#6) :
    nextRound (s.atRound x j) = s.atRound x (j + 1#6) :=
  if_neg hj

theorem nextRound_atRound_last (x : Chain) : nextRound (s.atRound x 63#6) = s.atFinish x :=
  if_pos rfl

/-- The rounds but the last, each one turn of the sequencer. -/
theorem run_rounds (hin : s.inputs = []) (hr : s.rst = false) (hf : s.fsm = .round) (hi : s.i = 0#6) {n : Nat}
    (hn : n ≤ 63) : ∃ x, Host.Core.run Sys2Proof.core n s = .next (s.atRound x (BitVec.ofNat 6 n)) := by
  induction n with
  | zero => exact ⟨s.acc, by rw [State.atRound, ← hi]; rfl⟩
  | succ n ih =>
    obtain ⟨x, hrun⟩ := ih (by omega)
    have hne : BitVec.ofNat 6 n ≠ 63#6 := by bv_omega
    obtain ⟨y, hstep⟩ := step_atRound hin hr hf x (BitVec.ofNat 6 n)
    rw [nextRound_atRound y hne, ← BitVec.ofNat_add] at hstep
    exact ⟨y, run_then_step hrun hstep⟩

/-- The 64 rounds of a block. -/
theorem run_all_rounds (hin : s.inputs = []) (hr : s.rst = false) (hf : s.fsm = .round) (hi : s.i = 0#6)
    (hrounds : RoundsDone s) :
    Host.Core.run Sys2Proof.core 64 s = .next (s.atFinish (roundsOn s.m s.snap roundsPerBlock)) := by
  obtain ⟨x, hrun⟩ := run_rounds hin hr hf hi (Nat.le_refl 63)
  obtain ⟨y, hstep⟩ := step_atRound hin hr hf x 63#6
  rw [nextRound_atRound_last] at hstep
  have hy := run_then_step hrun hstep
  obtain ⟨-, hfinish⟩ := run_keeps Sys2Proof.core Proofs.stepKeepsRoundsDone hy hrounds
  obtain ⟨-, hacc⟩ := hfinish rfl
  rw [hy]
  exact congrArg (fun z => Host.Outcome.next (s.atFinish z)) hacc

theorem ite_lastBlock {α : Type} (s : State) (a b : α) :
    (if s.lastBlock then a else b) = if s.blk.toNat + 1 = nblk s.msgLen then a else b := by
  simp [State.lastBlock]

/-- The state one block later: from the LOAD of a block to the next one's LOAD, or to IDLE after the last. -/
def State.afterBlock (s : State) : State :=
  { s with
    acc := compress s.acc (blockWords s.stream s.blk.toNat)
    snap := s.acc
    m := blockWords s.stream s.blk.toNat
    i := 63#6
    blk := s.blk + 1#64
    fsm := if s.lastBlock then .idle else .load
    done := if s.lastBlock then true else s.done
    fetched := []
    reads := s.reads ++ (List.range' s.portPos s.portLeft).map s.msgAddr }

theorem finishBlock_atFinish_loadBlock {x : Chain}
    (hx : addChain s.acc x = compress s.acc (blockWords s.stream s.blk.toNat)) :
    finishBlock ((loadBlock s).atFinish x) = s.afterBlock := by
  rw [State.afterBlock, ← hx, loadBlock_eq]
  rfl

/-- LOAD, 64 rounds and FINISH. -/
theorem run_block (hin : s.inputs = []) (hr : s.rst = false) (hack : s.memAck = true) (hf : s.fsm = .load) :
    Host.Core.run Sys2Proof.core 66 s = .next s.afterBlock := by
  have hload := run_one (step_load hin hr hf ((loadWaits_false_iff s).2 (.inl hack)))
  have hin' : (loadBlock s).inputs = [] := by rw [loadBlock_inputs, hin]
  have hr' : (loadBlock s).rst = false := by rw [loadBlock_rst, hr]
  have hrounds := run_all_rounds hin' hr' (loadBlock_fsm s) (loadBlock_i s) (roundsDone_loadBlock s)
  rw [loadBlock_m, loadBlock_snap] at hrounds
  refine run_then_step ((run_add Sys2Proof.core 1 64 s hload).trans hrounds) ?_
  rw [step_finish (s := (loadBlock s).atFinish _) hin' hr' rfl, finishBlock_atFinish_loadBlock rfl]

/-! ### A message with no move pending -/

/-- The state between the blocks of the message of s, n of them done: at the LOAD of block n, or completed. The
snapshot, the block buffer and the round counter are those the block before left. -/
def State.atBlock (n : Nat) (x : Chain) (y : Vector Word 16) (j : BitVec 6) (s : State) : State :=
  { s with
    acc := chainOf (messageStream s) n
    snap := x
    m := y
    i := j
    blk := BitVec.ofNat 64 n
    fsm := if n = nblk s.msgLen then .idle else .load
    done := if n = nblk s.msgLen then true else s.done
    fetched := []
    reads := (List.range (min (64 * n) s.msgLen.toNat)).map s.msgAddr }

section
variable {t : State} {n : Nat} {x : Chain} {y : Vector Word 16} {j : BitVec 6}

theorem atBlock_zero (hf : s.fsm = .load) (hblk : s.blk = 0#64) (hacc : s.acc = iv) (hq : s.fetched = [])
    (hreads : s.reads = []) : s.atBlock 0 s.snap s.m s.i = s := by
  have hne : 0 ≠ nblk s.msgLen := (nblk_pos s.msgLen).ne
  unfold State.atBlock
  rw [if_neg hne, if_neg hne, Nat.mul_zero, Nat.zero_min, List.range_zero, List.map_nil, chainOf_zero, ← hf, ← hblk,
    ← hacc, ← hreads, ← hq]

theorem atBlock_blk_toNat (hn : n < nblk s.msgLen) (ht : t = s.atBlock n x y j) : t.blk.toNat = n := by
  subst ht
  unfold nblk at hn
  have hlen := s.msgLen.isLt
  exact Nat.mod_eq_of_lt (by omega)

/-- The block that LOAD takes is the block of the message of s, no byte of it overwritten. -/
theorem atBlock_compress (hu : Unraced s) (ht : t = s.atBlock n x y j) (hf : t.fsm = .load)
    (hblk : t.blk.toNat = n) :
    compress t.acc (blockWords t.stream t.blk.toNat) = chainOf (messageStream s) (n + 1) := by
  have hheld : HeldBytes t := heldBytes_of_load hf (ht ▸ nofun)
  rw [blockWords_stream_unraced hheld hf (ht ▸ hu), hblk, ht]
  rfl

/-- The LOAD of block n reads on where the blocks before it ended. -/
theorem atBlock_reads (ht : t = s.atBlock n x y j) (hblk : t.blk.toNat = n) :
    t.reads ++ (List.range' t.portPos t.portLeft).map t.msgAddr =
      (List.range (min (64 * (n + 1)) s.msgLen.toNat)).map s.msgAddr := by
  rw [← range_append_portLeft s.msgLen n 0 (Nat.zero_le _), List.map_append, State.portPos, State.portLeft, hblk, ht]
  rfl

/-- One block more of the message of s. -/
theorem afterBlock_atBlock (hu : Unraced s) (hn : n < nblk s.msgLen) (ht : t = s.atBlock n x y j) :
    ∃ x' y' j', t.afterBlock = s.atBlock (n + 1) x' y' j' := by
  have hblk : t.blk.toNat = n := atBlock_blk_toNat hn ht
  have hnext : t.blk + 1#64 = BitVec.ofNat 64 (n + 1) := ht ▸ (BitVec.ofNat_add n 1).symm
  have hf : t.fsm = .load := ht ▸ if_neg hn.ne
  have hdone : t.done = s.done := ht ▸ if_neg hn.ne
  refine ⟨t.acc, blockWords t.stream t.blk.toNat, 63#6, ?_⟩
  unfold State.afterBlock
  rw [atBlock_compress hu ht hf hblk, hnext, atBlock_reads ht hblk, ite_lastBlock, ite_lastBlock, hblk, hdone, ht]
  rfl

end

/-- The blocks of a message, 66 turns of the sequencer each. -/
theorem run_blocks (hin : s.inputs = []) (hr : s.rst = false) (hack : s.memAck = true) (hu : Unraced s)
    (hstart : s.atBlock 0 s.snap s.m s.i = s) {n : Nat} (hn : n ≤ nblk s.msgLen) :
    ∃ x y j, Host.Core.run Sys2Proof.core (66 * n) s = .next (s.atBlock n x y j) := by
  induction n with
  | zero => exact ⟨s.snap, s.m, s.i, congrArg Host.Outcome.next hstart.symm⟩
  | succ n ih =>
    obtain ⟨x, y, j, hrun⟩ := ih (Nat.le_of_succ_le hn)
    obtain ⟨x', y', j', hblock⟩ := afterBlock_atBlock hu hn (t := s.atBlock n x y j) rfl
    have hmore := run_block (s := s.atBlock n x y j) hin hr hack (if_neg (Nat.ne_of_lt hn))
    exact ⟨x', y', j', (run_add Sys2Proof.core (66 * n) 66 s hrun).trans
      (hmore.trans (congrArg Host.Outcome.next hblock))⟩

/-! ### The stream a LOAD takes (R132, R153) -/

/-- With no byte raced, a message byte is the one read already or the one the memory holds. -/
theorem loadByte_unraced (h : s.raced = []) (j : Nat) :
    s.loadByte j = (s.fetched[j - 64 * s.blk.toNat]?).getD (s.mem.read (s.msgAddr j)) := by
  rw [State.loadByte, msgByte_unraced h]

end Sys2Proof.Machine

namespace Sys2Proof.Proofs

open Sys2Proof.Machine Sys2Proof.Safety

/-- Settles O32: the LOAD in closed form, its stream the padded one of the bytes read already and those in memory. -/
theorem loadFetchesTheBlock : Obligations.LoadFetchesTheBlock := by
  intro s hf hraced hready
  refine ⟨blockWords s.stream s.blk.toNat, s.stream, fun j _ => ?_, fun k hk => blockWords_get _ _ k hk, ?_⟩
  · rw [State.stream, padded, loadByte_unraced hraced]
    rfl
  · rw [exec_seqLoad hf ((loadWaits_false_iff s).2 hready), loadBlock_eq]
    rfl

/-- Settles O59: LOAD, 64 rounds and FINISH come to the state one block later. -/
theorem blockTakesSixtySixSteps : Obligations.BlockTakesSixtySixSteps := by
  intro s hin hr hack hf
  have hrun := run_block hin hr hack hf
  unfold State.afterBlock at hrun
  exact ⟨_, hrun, rfl, rfl, ite_lastBlock s _ _, ite_lastBlock s _ _, rfl, rfl, rfl, rfl, rfl, rfl, rfl, hin, hr,
    hack, rfl⟩

/-- Settles O60: all NBLK blocks, 66 steps each, from the state just after START. -/
theorem messageCompletesWithItsDigest : Obligations.MessageCompletesWithItsDigest := by
  intro s hin hr hack hf hblk hacc hq hraced hreads
  have hu : Unraced s := by simp [Unraced, hraced]
  obtain ⟨x, y, j, hrun⟩ := run_blocks hin hr hack hu (atBlock_zero hf hblk hacc hq hreads) (Nat.le_refl _)
  have hall : min (64 * nblk s.msgLen) s.msgLen.toNat = s.msgLen.toNat := by
    have := length_before_lengthField s.msgLen
    omega
  unfold State.atBlock at hrun
  rw [hall] at hrun
  exact ⟨_, hrun, rfl, if_pos rfl, if_pos rfl, rfl, rfl, rfl, rfl⟩

end Sys2Proof.Proofs

/-! PROOFS of the family 42_block_scheduler.md, NBLK and the byte order (R134, R151, R155, R190, R191). -/

namespace Sys2Proof.Machine

/-- A word appended behind another by value. -/
theorem append_toNat {v w : Nat} (x : BitVec v) (y : BitVec w) : (x ++ y).toNat = 2 ^ w * x.toNat + y.toNat := by
  rw [BitVec.toNat_append, ← Nat.shiftLeft_add_eq_or_of_lt y.isLt, Nat.shiftLeft_eq, Nat.mul_comm]

theorem le32_toNat (q0 q1 q2 q3 : Byte) :
    (le32 q0 q1 q2 q3).toNat = q0.toNat + 2 ^ 8 * q1.toNat + 2 ^ 16 * q2.toNat + 2 ^ 24 * q3.toNat := by
  refine (append_toNat (q3 ++ q2 ++ q1) q0).trans ?_
  rw [append_toNat, append_toNat]
  omega

/-- A word is assembled from its bytes. -/
theorem le32_byteOf (x : Word) : le32 (byteOf x 0) (byteOf x 1) (byteOf x 2) (byteOf x 3) = x := by
  unfold le32 byteOf
  rw [BitVec.extractLsb'_append_extractLsb'_eq_extractLsb' (start₁ := 8 * 2) (by omega),
    BitVec.extractLsb'_append_extractLsb'_eq_extractLsb' (start₁ := 8 * 1) (by omega),
    BitVec.extractLsb'_append_extractLsb'_eq_extractLsb' (start₁ := 8 * 0) (by omega)]
  exact BitVec.extractLsb'_eq_self

/-- The swap assembles the bytes in reverse order. -/
theorem bswap32_eq_le32 (x : Word) : bswap32 x = le32 (byteOf x 3) (byteOf x 2) (byteOf x 1) (byteOf x 0) := rfl

theorem byteOf_bswap32 (x : Word) (n : Nat) (hn : n < 4) : byteOf (bswap32 x) (3 - n) = byteOf x n := by
  obtain ⟨h0, h1, h2, h3⟩ := byteOf_le32 (byteOf x 3) (byteOf x 2) (byteOf x 1) (byteOf x 0)
  rw [bswap32_eq_le32]
  interval_cases n
  · exact h3
  · exact h2
  · exact h1
  · exact h0

theorem bswap32_bswap32 (x : Word) : bswap32 (bswap32 x) = x := by
  rw [bswap32_eq_le32 (bswap32 x), byteOf_bswap32 x 0 (by decide), byteOf_bswap32 x 1 (by decide),
    byteOf_bswap32 x 2 (by decide), byteOf_bswap32 x 3 (by decide), le32_byteOf]

/-- NBLK is the least number of blocks with room for the message, the byte 0x80 and the length field. -/
theorem nblk_le_iff (len : DWord) (n : Nat) : nblk len ≤ n ↔ len.toNat + 9 ≤ 64 * n := by
  unfold nblk
  omega

end Sys2Proof.Machine

namespace Sys2Proof.Proofs

open Sys2Proof.Machine

/-- Settles O41: the least n, its bounds from L < 2^64, and the zero fill modulo 64. -/
theorem blockCountAndZeroFill : Obligations.BlockCountAndZeroFill := by
  intro len
  have hlen := len.isLt
  have hroom := nblk_le_iff len
  refine ⟨hroom, nblk_pos len, (hroom _).2 (by omega), ?_⟩
  have hleast := hroom (nblk len - 1)
  have hfits := (hroom (nblk len)).1 (Nat.le_refl _)
  omega

/-- Settles O43: assembly by value, the swap byte by byte and twice, and the digest's bytes word by word. -/
theorem byteOrder : Obligations.ByteOrder :=
  ⟨le32_toNat, fun x => ⟨bswap32_bswap32 x, byteOf_bswap32 x⟩, fun _ => rfl⟩

end Sys2Proof.Proofs

/-! PROOFS of the family 43_compression.md. What an enabled ROUND step answers, of a kind and the generic one, and what
FINISH answers (R170 to R176). -/

namespace Sys2Proof.Machine

variable {s : State}

/-! ### ROUND steps (R170, R175) -/

/-- The step of a kind is enabled at its own index. -/
theorem whenEnabled_roundStep {j : BitVec 6} (hf : s.fsm = .round) (hi : s.i = j) (mn : String)
    (fn : Word → Word → Word → Word) (g : BitVec 6 → BitVec 4) :
    whenEnabled (s.roundEnabled j) mn (roundStep fn (g j) s) = .next (roundStep fn (g s.i) s) := by
  subst hi
  simp [State.roundEnabled, hf]

/-- A ROUND step in full: at index 63 the counter stays and the rounds end. -/
theorem roundStep_of_round (hf : s.fsm = .round) (fn : Word → Word → Word → Word) (g : BitVec 4) :
    roundStep fn g s = { s with
      acc := roundChain fn (atPos s.m g) (kRom s.i) (rRom s.i) s.acc
      i := if s.i = 63#6 then 63#6 else s.i + 1#6
      fsm := if s.i = 63#6 then .finish else .round } := by
  unfold roundStep nextRound
  by_cases hlast : s.i = 63#6
  · simp [hlast]
  · simp [hlast, hf]

/-- Before index 63 only the accumulator and the counter change. -/
theorem roundStep_of_not_last (hlast : s.i ≠ 63#6) (fn : Word → Word → Word → Word) (g : BitVec 4) :
    roundStep fn g s = { s with
      acc := roundChain fn (atPos s.m g) (kRom s.i) (rRom s.i) s.acc
      i := s.i + 1#6 } :=
  if_neg hlast

/-- The last round index is the last one of kind I (R80). -/
theorem append_eq_last_iff (kind : BitVec 2) (p : BitVec 4) : kind ++ p = 63#6 ↔ kind = 3#2 ∧ p = 15#4 := by
  revert kind p
  decide

/-- No round of another kind is the last. -/
theorem not_last_of_kind {kind : BitVec 2} {p : BitVec 4} (hi : s.i = kind ++ p) (hkind : kind ≠ 3#2) :
    s.i ≠ 63#6 :=
  fun hlast => hkind ((append_eq_last_iff kind p).1 (hi ▸ hlast)).1

/-- The rounds of kind F take the words of the block in order (R154). -/
theorem gF_append (p : BitVec 4) : gF (0#2 ++ p) = p := by
  revert p
  decide

theorem exec_seqRound (hf : s.fsm = .round) :
    exec .seqRound s = .next (roundStep (roundFn s.i) (gIndex s.i) s) := by
  simp [exec, execSeqRound, hf]

/-! ### FINISH (R176) -/

theorem exec_seqFinish (hf : s.fsm = .finish) : exec .seqFinish s = .next (finishBlock s) := by
  simp [exec, execSeqFinish, hf]

end Sys2Proof.Machine

namespace Sys2Proof.Proofs

open Sys2Proof.Machine

/-- Settles O27: the step is enabled and not the last one, and its word index is the position in the group. -/
theorem roundFResult : Obligations.RoundFResult := by
  intro s p hf hi
  refine (whenEnabled_roundStep hf hi "ROUND.F" fnF gF).trans ?_
  rw [roundStep_of_not_last (not_last_of_kind hi (by decide)), hi, gF_append]
  rfl

/-- Settles O28: the step is enabled and not the last one. -/
theorem roundGResult : Obligations.RoundGResult := by
  intro s p hf hi
  refine (whenEnabled_roundStep hf hi "ROUND.G" fnG gG).trans ?_
  rw [roundStep_of_not_last (not_last_of_kind hi (by decide)), ← hi]
  rfl

/-- Settles O29: the step is enabled and not the last one. -/
theorem roundHResult : Obligations.RoundHResult := by
  intro s p hf hi
  refine (whenEnabled_roundStep hf hi "ROUND.H" fnH gH).trans ?_
  rw [roundStep_of_not_last (not_last_of_kind hi (by decide)), ← hi]
  rfl

/-- Settles O30: the step is enabled, and it is the last one at position 15. -/
theorem roundIResult : Obligations.RoundIResult := by
  intro s p hf hi
  refine (whenEnabled_roundStep hf hi "ROUND.I" fnI gI).trans ?_
  have hlast : s.i = 63#6 ↔ p = 15#4 := by simp [hi, append_eq_last_iff]
  rw [roundStep_of_round hf, ← hi]
  by_cases hp : p = 15#4
  · simp only [if_pos hp, ← hlast.2 hp]
    rfl
  · simp only [if_neg hp, if_neg (mt hlast.1 hp)]
    rfl

/-- Settles O31: the generic step is the decoded round, and temp is its round sum. -/
theorem genericRoundIsTheSelectedRound : Obligations.GenericRoundIsTheSelectedRound := by
  intro s hf
  refine ⟨(exec_decodeRound hf).symm, _, ?_, rfl⟩
  rw [exec_seqRound hf, roundStep_of_round hf]
  rfl

/-- Settles O35: the step is enabled, and the last block is the one that brings the counter to NBLK. -/
theorem finishAddsTheSnapshot : Obligations.FinishAddsTheSnapshot := by
  intro s hf
  rw [exec_seqFinish hf, finishBlock, ite_lastBlock, ite_lastBlock]
  rfl

end Sys2Proof.Proofs

/-! PROOFS of the family 45_host_interface.md. The step that runs an access, what a command and a configuration write
answer in IDLE and while BUSY, and the values the registers read as (R210 to R239). -/

namespace Sys2Proof

/-! ### The commands' words (R72, R73) -/

theorem decodeHow_command (hi : BitVec 28) (cmd : BitVec 4) :
    decodeHow (howBits 1#1 0#4 (hi ++ cmd)) = commandOf hi cmd :=
  (decodeHow_write 0#4 (hi ++ cmd)).trans (decodeCmd_append hi cmd)

theorem commandOf_reserved0011 (hi : BitVec 28) {cmd : BitVec 4} (hcmd : cmd.toNat = 3) :
    commandOf hi cmd = .cmdReserved0011 hi := by
  obtain rfl : cmd = 3#4 := BitVec.eq_of_toNat_eq hcmd
  rfl

/-- The codes 3 to 15 are those of the three reserved rows. -/
theorem commandOf_isReserved (hi : BitVec 28) {cmd : BitVec 4} (hcmd : 3 ≤ cmd.toNat) :
    (commandOf hi cmd).IsReserved := by
  obtain h3 | h4 | h8 : cmd.toNat = 3 ∨ (4 ≤ cmd.toNat ∧ cmd.toNat ≤ 7) ∨ 8 ≤ cmd.toNat := by omega
  · exact ⟨hi, .inl (commandOf_reserved0011 hi h3)⟩
  · exact ⟨hi, .inr ⟨cmd, .inl (commandOf_reserved01xx hi h4)⟩⟩
  · exact ⟨hi, .inr ⟨cmd, .inr (commandOf_reserved1xxx hi h8)⟩⟩

end Sys2Proof

namespace Sys2Proof.Machine

variable {s : State}

/-! ### The steps of an access and of FINISH's turn (R176, R211) -/

theorem fetchAccess_of_released (hr : s.rst = false) (w : BitVec 37) : fetchAccess w s = .run (decodeHow w) s := by
  simp [fetchAccess, hr]

theorem step_of_access {w : BitVec 37} {l : List Move} (hin : s.inputs = .access w :: l) (hr : s.rst = false) :
    step s = exec (decodeHow w) { s with inputs := l } :=
  (step_of_move hin).trans (congrArg runFetched (fetchAccess_of_released (s := { s with inputs := l }) hr w))

theorem decode_fsmCode_finish : decode ⟨.fsm, (fsmCode .finish).toNat⟩ = .ok .seqFinish := rfl

theorem step_of_finish_turn {l : List Move} (hin : s.inputs = .turn :: l) (hr : s.rst = false)
    (hf : s.fsm = .finish) : step s = .next (finishBlock { s with inputs := l }) := by
  rw [step_of_turn (.inl hin), fetchTurn_of_decode (s := { s with inputs := l }) hr (hf ▸ decode_fsmCode_finish)]
  exact exec_seqFinish (s := { s with inputs := l }) hf

/-! ### Commands (R213, R215) -/

theorem exec_cmdStart_idle (hi : BitVec 28) (hf : s.fsm = .idle) :
    exec (.cmdStart hi) s = .next (beginMessage s) := by
  simp [exec, execCmdStart, (not_busy_iff s).2 hf]

theorem exec_cmdStart_busy (hi : BitVec 28) (hf : s.fsm ≠ .idle) :
    exec (.cmdStart hi) s = .next (raiseErr errStartWhileBusy s) := by
  simp [exec, execCmdStart, (busy_iff s).2 hf]

theorem exec_reserved {i : Instr} (hi : i.IsReserved) (s : State) :
    exec i s = .next (raiseErr errReservedCmd s) := by
  obtain ⟨hi, rfl | ⟨cmd, rfl | rfl⟩⟩ := hi <;> rfl

/-! ### Register writes (R216 to R219) -/

theorem exec_wrStatus_clears {d : Word} (hd : d.getLsbD 2 = true) (s : State) :
    exec (.wrStatus d) s = .next (clearErr s) :=
  congrArg Host.Outcome.next (if_pos hd)

theorem exec_wrStatus_ignored {d : Word} (hd : d.getLsbD 2 = false) (s : State) :
    exec (.wrStatus d) s = .next s :=
  congrArg Host.Outcome.next (if_neg (ne_true_of_eq_false hd))

/-- While BUSY every configuration write is refused with error 3. -/
theorem exec_configWrite_busy {i : Instr} (hi : i.IsConfigWrite) (hf : s.fsm ≠ .idle) :
    exec i s = .next (raiseErr errCfgWriteWhileBusy s) := by
  obtain ⟨d, rfl | rfl | rfl⟩ := hi <;>
    exact congrArg Host.Outcome.next (writeConfig_busy _ ((busy_iff s).2 hf))

theorem exec_wrMsgBase_idle (d : Word) (hf : s.fsm = .idle) :
    exec (.wrMsgBase d) s = .next { s with msgBase := d } :=
  congrArg Host.Outcome.next (writeConfig_idle _ ((not_busy_iff s).2 hf))

theorem exec_wrMsgLenLo_idle (d : Word) (hf : s.fsm = .idle) :
    exec (.wrMsgLenLo d) s = .next { s with msgLen := lenOf (lenHi s.msgLen) d } :=
  congrArg Host.Outcome.next (writeConfig_idle _ ((not_busy_iff s).2 hf))

theorem exec_wrMsgLenHi_idle (d : Word) (hf : s.fsm = .idle) :
    exec (.wrMsgLenHi d) s = .next { s with msgLen := lenOf d (lenLo s.msgLen) } :=
  congrArg Host.Outcome.next (writeConfig_idle _ ((not_busy_iff s).2 hf))

/-! ### The halves of MSG_LEN by value (R33) -/

theorem lenLo_toNat (len : DWord) : (lenLo len).toNat = len.toNat % 2 ^ 32 := by
  simp [lenLo]

theorem lenHi_toNat (len : DWord) : (lenHi len).toNat = len.toNat / 2 ^ 32 := by
  have hlen := len.isLt
  rw [lenHi, BitVec.extractLsb'_toNat, Nat.shiftRight_eq_div_pow]
  omega

theorem lenOf_toNat (hi lo : Word) : (lenOf hi lo).toNat = hi.toNat * 2 ^ 32 + lo.toNat := by
  rw [lenOf, append_toNat, Nat.mul_comm]

theorem lenLo_eq_ofNat (len : DWord) : lenLo len = BitVec.ofNat 32 len.toNat :=
  BitVec.eq_of_toNat_eq (by rw [lenLo_toNat, BitVec.toNat_ofNat])

theorem lenHi_eq_ofNat (len : DWord) : lenHi len = BitVec.ofNat 32 (len.toNat / 2 ^ 32) := by
  rw [← lenHi_toNat, BitVec.ofNat_toNat, BitVec.setWidth_eq]

/-! ### STATUS and the digest views (R34, R37) -/

theorem busy_toNat (s : State) : s.busy.toNat = if s.fsm ≠ .idle then 1 else 0 := by
  by_cases hf : s.fsm = .idle
  · simp [hf, (not_busy_iff s).2 hf]
  · simp [hf, (busy_iff s).2 hf]

theorem statusWord_toNat (s : State) :
    (statusWord s).toNat = s.busy.toNat + 2 * s.done.toNat + 4 * s.err.toNat + 16 * s.errCode.toNat := by
  simp only [statusWord, append_toNat, BitVec.toNat_ofBool, BitVec.toNat_ofNat]
  omega

theorem statusWord_busy (s : State) : (statusWord s).getLsbD 0 = s.busy := by
  simp only [statusWord, BitVec.getLsbD_append]
  simp

theorem statusWord_done (s : State) : (statusWord s).getLsbD 1 = s.done := by
  simp only [statusWord, BitVec.getLsbD_append]
  simp

theorem statusWord_reservedBit (s : State) : (statusWord s).getLsbD 3 = false := by
  simp only [statusWord, BitVec.getLsbD_append]
  simp

theorem statusWord_toNat_lt (s : State) : (statusWord s).toNat < 2 ^ 8 := by
  have hbusy := Bool.toNat_le s.busy
  have hdone := Bool.toNat_le s.done
  have herr := Bool.toNat_le s.err
  have hcode := s.errCode.isLt
  rw [statusWord_toNat]
  omega

theorem statusWord_reservedByte (s : State) {n : Nat} (hn : 8 ≤ n) : (statusWord s).getLsbD n = false :=
  Nat.testBit_lt_two_pow ((statusWord_toNat_lt s).trans_le (Nat.pow_le_pow_right Nat.two_pos hn))

theorem digestView_eq (s : State) (w : Word) : digestView s w = if s.fsm ≠ .idle then 0#32 else w := by
  simp only [digestView, busy_iff]

end Sys2Proof.Machine

namespace Sys2Proof.Proofs

open Sys2Proof.Machine

/-- Settles O6: the word is one of its format, and with the pin released the access fetches what it decodes to. -/
theorem stepRunsTheDecodedAccess : Obligations.StepRunsTheDecodedAccess :=
  fun _ w _ hin hr => ⟨decode_how w, step_of_access hin hr⟩

/-- Settles O14: the reserved and the digest indices decode row by row, and none of the four writes has an effect. -/
theorem ignoredWritesChangeNothing : Obligations.IgnoredWritesChangeNothing := by
  intro s hi d idx
  refine ⟨⟨decodeHow_command hi 0#4, rfl⟩, ⟨decodeHow_write 5#4 d, rfl⟩, fun hidx => ⟨?_, rfl⟩, fun hidx => ⟨?_, rfl⟩⟩
  · obtain rfl | rfl := reserved_index hidx <;> exact decodeHow_write _ d
  · rw [decodeHow_write, decodeWrite_digest d hidx]

/-- Settles O15: an accepted START begins a message, a refused one raises error 1. -/
theorem startBeginsAMessageOrIsRefused : Obligations.StartBeginsAMessageOrIsRefused :=
  fun _ hi => ⟨decodeHow_command hi 1#4, exec_cmdStart_idle hi, exec_cmdStart_busy hi⟩

/-- Settles O16: ABORT is abortMessage, whatever the state. -/
theorem abortReturnsToIdle : Obligations.AbortReturnsToIdle :=
  fun _ hi => ⟨decodeHow_command hi 2#4, rfl⟩

/-- Settles O17: the code decides which reserved row the word decodes to, and each raises error 2. -/
theorem reservedCommandsRaiseErrorTwo : Obligations.ReservedCommandsRaiseErrorTwo :=
  fun s hi _ hcmd => ⟨_, decodeHow_command hi _, commandOf_reserved0011 hi, commandOf_reserved01xx hi,
    commandOf_reserved1xxx hi, exec_reserved (commandOf_isReserved hi hcmd) s⟩

/-- Settles O18: only DATA[2] is looked at. -/
theorem statusWriteClearsTheError : Obligations.StatusWriteClearsTheError :=
  fun s d => ⟨decodeHow_write 1#4 d, fun hd => exec_wrStatus_clears hd s, fun hd => exec_wrStatus_ignored hd s⟩

/-- Settles O19: a configuration write in IDLE and while BUSY. -/
theorem baseWrite : Obligations.BaseWrite :=
  fun _ d => ⟨decodeHow_write 2#4 d, exec_wrMsgBase_idle d, exec_configWrite_busy ⟨d, .inl rfl⟩⟩

/-- Settles O20: the new L is the written half put together with the other half of the old one, by value. -/
theorem lengthWrites : Obligations.LengthWrites := by
  intro s d
  refine ⟨decodeHow_write 3#4 d, decodeHow_write 4#4 d, fun hf => ⟨_, ?_, exec_wrMsgLenLo_idle d hf⟩,
    fun hf => ⟨_, ?_, exec_wrMsgLenHi_idle d hf⟩, fun hf => ⟨?_, ?_⟩⟩
  · rw [lenOf_toNat, lenHi_toNat]
  · rw [lenOf_toNat, lenLo_toNat]
  · exact exec_configWrite_busy ⟨d, .inr (.inl rfl)⟩ hf
  · exact exec_configWrite_busy ⟨d, .inr (.inr rfl)⟩ hf

/-- Settles O21: the register each index reads is a constant, the reserved ones at both their indices. -/
theorem constantReads : Obligations.ConstantReads := by
  intro s d idx
  refine ⟨⟨decodeHow_read 0#4 d, rfl⟩, ⟨decodeHow_read 5#4 d, rfl⟩, fun hidx => ?_⟩
  obtain rfl | rfl := reserved_index hidx <;> exact ⟨decodeHow_read _ d, rfl⟩

/-- Settles O22: the STATUS word by value. -/
theorem statusRead : Obligations.StatusRead :=
  fun s d => ⟨decodeHow_read 1#4 d, statusWord s, rfl, busy_toNat s ▸ statusWord_toNat s⟩

/-- Settles O23: the STATUS word bit by bit. -/
theorem outputsMirrorStatus : Obligations.OutputsMirrorStatus :=
  fun s _ => ⟨respond (statusWord s) s, rfl, (statusWord_busy s).symm, (statusWord_done s).symm,
    statusWord_reservedBit s, fun _ hn => statusWord_reservedByte s hn⟩

/-- Settles O24: the halves of L by value. -/
theorem configurationReads : Obligations.ConfigurationReads := by
  intro s d
  rw [← lenLo_eq_ofNat, ← lenHi_eq_ofNat]
  exact ⟨decodeHow_read 2#4 d, decodeHow_read 3#4 d, decodeHow_read 4#4 d, rfl, rfl, rfl⟩

/-- Settles O25: each read answers the digest view of its word. -/
theorem digestReads : Obligations.DigestReads := by
  intro s d
  simp only [← digestView_eq]
  exact ⟨decodeHow_read 8#4 d, decodeHow_read 9#4 d, decodeHow_read 10#4 d, decodeHow_read 11#4 d, rfl, rfl, rfl, rfl⟩

/-- Settles O26: each read answers the digest view of its word, swapped. -/
theorem digestSwapReads : Obligations.DigestSwapReads := by
  intro s d
  simp only [← digestView_eq]
  exact ⟨decodeHow_read 12#4 d, decodeHow_read 13#4 d, decodeHow_read 14#4 d, decodeHow_read 15#4 d,
    rfl, rfl, rfl, rfl⟩

/-- Settles O51: the START comes in FINISH, so it is refused and changes ERR and ERR_CODE alone; the turn after it is
the FINISH it would have been. -/
theorem startInTheCycleOfTheLastFinish : Obligations.StartInTheCycleOfTheLastFinish := by
  intro s hi l hin hr hf hblk herr
  have hstart : step s = .next { s with inputs := .turn :: l, err := true, errCode := errStartWhileBusy } := by
    rw [step_of_access hin hr, decodeHow_command]
    exact (exec_cmdStart_busy (s := { s with inputs := .turn :: l }) hi (by simp [hf])).trans
      (congrArg Host.Outcome.next (raiseErr_of_clear _ herr))
  have hlast : s.lastBlock = true := decide_eq_true hblk
  exact ⟨_, _, hstart, step_of_finish_turn rfl hr hf, hf, if_pos hlast, if_pos hlast, rfl, rfl, rfl, rfl⟩

end Sys2Proof.Proofs

/-! PROOFS of the family 60_exceptions.md. What an instruction can do to STATUS.ERR and STATUS.ERR_CODE, with its cause,
and that whatever a step fetches answers a next state (R250 to R254). -/

namespace Sys2Proof.Machine

variable {s t : State} {i : Instr}

/-! ### Who writes the error (R251, R252, R254) -/

/-- The causes of an error, each with its code (R251). -/
def ErrorCause (s : State) (i : Instr) (code : BitVec 4) : Prop :=
  (code = errStartWhileBusy ∧ s.fsm ≠ .idle ∧ ∃ hi, i = .cmdStart hi) ∨
  (code = errReservedCmd ∧ i.IsReserved) ∨
  (code = errCfgWriteWhileBusy ∧ s.fsm ≠ .idle ∧ i.IsConfigWrite)

/-- An instruction leaves ERR and ERR_CODE alone, is the STATUS write that clears them, or raises the error of its
cause and does nothing else. -/
theorem InstrEffect.error_writer (h : InstrEffect s i t) :
    (t.err = s.err ∧ t.errCode = s.errCode) ∨
    (t = clearErr s ∧ ∃ d, i = .wrStatus d ∧ statusClears d = true) ∨
    (∃ code, ErrorCause s i code ∧ t = raiseErr code s) := by
  cases h with
  | nothing | answer | start | abort | base | length | loadWaits | finish => exact .inl ⟨rfl, rfl⟩
  | load => exact .inl ⟨loadBlock_err s, loadBlock_errCode s⟩
  | round => exact .inl ⟨roundStep_err s _ _, roundStep_errCode s _ _⟩
  | clear hd => exact .inr (.inl ⟨rfl, _, rfl, hd⟩)
  | startRefused hf => exact .inr (.inr ⟨_, .inl ⟨rfl, hf, _, rfl⟩, rfl⟩)
  | reserved hi => exact .inr (.inr ⟨_, .inr (.inl ⟨rfl, hi⟩), rfl⟩)
  | writeRefused hi hf => exact .inr (.inr ⟨_, .inr (.inr ⟨rfl, hf, hi⟩), rfl⟩)

/-! ### The machine goes on (R250, R253) -/

/-- A register access runs in every state: only the sequencer's steps have an enabling condition. -/
theorem exec_access_next (hi : i.isSeq = false) (s : State) : ∃ t, exec i s = .next t := by
  cases i with
  | roundF | roundG | roundH | roundI | seqLoad | seqRound | seqFinish => cases hi
  | _ => exact ⟨_, rfl⟩

/-- The sequencer's turn runs the step that fsm enables, or none. -/
theorem fetchTurn_next (s : State) : ∃ t, runFetched (fetchTurn s) = .next t := by
  obtain ⟨-, hf, h⟩ | ⟨-, hf, h⟩ | ⟨-, hf, h⟩ | ⟨-, h⟩ := fetchTurn_cases s <;> rw [h]
  · exact ⟨_, whenEnabled_of_enabled _ _ (decide_eq_true hf)⟩
  · exact ⟨_, exec_seqRound hf⟩
  · exact ⟨_, exec_seqFinish hf⟩
  · exact ⟨s, rfl⟩

/-- Every move answers a next state but a host write to an address the memory does not have. -/
theorem fetchMove_next {e : Move} (he : ∀ a b, e = .memWrite a b → a < 2 ^ s.memAddrW) :
    ∃ t, runFetched (fetchMove e s) = .next t := by
  cases e with
  | access w =>
    cases hr : s.rst with
    | false =>
      obtain ⟨t, ht⟩ := exec_access_next (decodeHow_isSeq w) s
      exact ⟨t, (congrArg runFetched (fetchAccess_of_released hr w)).trans ht⟩
    | true => exact ⟨_, congrArg runFetched (if_pos hr)⟩
  | turn => exact fetchTurn_next s
  | memWrite a b => exact ⟨_, hostMemWrite_of_lt b (he a b rfl)⟩
  | rst | answer | ack => exact ⟨_, rfl⟩

end Sys2Proof.Machine

namespace Sys2Proof.Proofs

open Sys2Proof.Machine

/-- Settles O13: the step is a turn of the sequencer or takes a move, and both go on. -/
theorem machineNeverStops : Obligations.MachineNeverStops := by
  intro s hwrite
  cases hin : s.inputs with
  | nil =>
    rw [step_of_no_move hin]
    exact fetchTurn_next s
  | cons e l =>
    rw [step_of_move hin]
    exact fetchMove_next (s := { s with inputs := l }) fun a b he => hwrite a b l (he ▸ hin)

/-- Settles O46: of the things an instruction can do to the error, only raising it sets ERR. -/
theorem errorsArePreciseWithTheirCause : Obligations.ErrorsArePreciseWithTheirCause := by
  intro i s t h hbefore hafter
  obtain ⟨hkept, -⟩ | ⟨rfl, -⟩ | ⟨code, hcause, rfl⟩ := (exec_effect h).error_writer
  · simp [hkept, hbefore] at hafter
  · cases hafter
  · rw [raiseErr_of_clear code hbefore]
    exact ⟨rfl, hcause⟩

/-- Settles O47: a second error is not recorded, so that only clearing changes it. -/
theorem errorIsStickyUntilCleared : Obligations.ErrorIsStickyUntilCleared := by
  intro i s t h herr
  obtain ⟨hkept, hcode⟩ | ⟨rfl, hclear⟩ | ⟨code, -, rfl⟩ := (exec_effect h).error_writer
  · exact .inl ⟨hkept.trans herr, hcode⟩
  · exact .inr ⟨rfl, rfl, hclear⟩
  · rw [raiseErr_of_err code herr]
    exact .inl ⟨herr, rfl⟩

end Sys2Proof.Proofs

/-! PROOFS of the family 70_reset_and_hazards.md. Which accesses are reads, the steps of the environment's moves, and
what every step does while rst = 1 (R280, R281). -/

namespace Sys2Proof

/-! ### Reads are the words with WE = 0 (R70, R71) -/

theorem commandOf_isRead (hi : BitVec 28) (cmd : BitVec 4) : (commandOf hi cmd).isRead = false := by
  rcases bv4_cases cmd with
    rfl | rfl | rfl | rfl | rfl | rfl | rfl | rfl | rfl | rfl | rfl | rfl | rfl | rfl | rfl | rfl <;> rfl

theorem decodeCmd_isRead (d : Word) : (decodeCmd d).isRead = false := by
  obtain ⟨hi, cmd, rfl⟩ := exists_ctrlData d
  rw [decodeCmd_append]
  exact commandOf_isRead hi cmd

theorem decodeWrite_isRead (idx : BitVec 4) (d : Word) : (decodeWrite idx d).isRead = false := by
  rcases bv4_cases idx with
    rfl | rfl | rfl | rfl | rfl | rfl | rfl | rfl | rfl | rfl | rfl | rfl | rfl | rfl | rfl | rfl
  · exact decodeCmd_isRead d
  all_goals rfl

theorem decodeRead_isRead (idx : BitVec 4) (d : Word) : (decodeRead idx d).isRead = true := by
  rcases bv4_cases idx with
    rfl | rfl | rfl | rfl | rfl | rfl | rfl | rfl | rfl | rfl | rfl | rfl | rfl | rfl | rfl | rfl <;> rfl

theorem decodeHow_isRead (w : BitVec 37) : (decodeHow w).isRead = !howWe w := by
  unfold decodeHow
  cases howWe w
  · exact decodeRead_isRead _ _
  · exact decodeWrite_isRead _ _

end Sys2Proof

namespace Sys2Proof.Machine

open Sys2Proof.Safety

variable {s t : State}

/-! ### Accesses, turns and the port while rst = 1 (R280) -/

theorem memReq_of_reset (hr : s.rst = true) : s.memReq = false := by
  simp [State.memReq, hr]

theorem step_of_access_under_reset {w : BitVec 37} {l : List Move} (hin : s.inputs = .access w :: l)
    (hr : s.rst = true) : step s = .next (ignoreAccess (howWe w) { s with inputs := l }) :=
  (step_of_move hin).trans (congrArg runFetched (if_pos hr))

/-- What is left of an access under reset depends on whether it is a read alone. -/
theorem ignoreAccess_howWe (w : BitVec 37) (s : State) :
    ignoreAccess (howWe w) s = if (decodeHow w).isRead then respond 0#32 s else s := by
  rw [decodeHow_isRead]
  cases howWe w <;> rfl

theorem step_of_turn_under_reset {l : List Move} (h : s.inputs = .turn :: l ∨ (s.inputs = [] ∧ l = []))
    (hr : s.rst = true) : step s = .next { s with inputs := l } :=
  (step_of_turn h).trans (congrArg runFetched (fetchTurn_quiet (s := { s with inputs := l }) (.inl hr)))

/-! ### The environment's moves (R263, R280, R281) -/

theorem step_of_rst {level : Bool} {l : List Move} (hin : s.inputs = .rst level :: l) :
    step s = .next (setRst level { s with inputs := l }) :=
  step_of_move hin

theorem step_of_answer {on : Bool} {l : List Move} (hin : s.inputs = .answer on :: l) :
    step s = .next { s with inputs := l, memAck := on } :=
  step_of_move hin

/-! ### The reset state is held (R280, R281) -/

theorem resetHeld_of_released (hr : t.rst = false) : ResetHeld t :=
  fun h => absurd h (ne_true_of_eq_false hr)

/-- Under reset a read answers the 0 that rdata holds. -/
theorem resetHeld_ignoreAccess (b : Bool) (hs : ResetHeld s) : ResetHeld (ignoreAccess b s) := by
  cases b with
  | true => exact hs
  | false =>
    intro hr
    obtain ⟨hacc, hi, hblk, hfsm, hdone, herr, hcode, hbase, hlen, -⟩ := hs hr
    exact ⟨hacc, hi, hblk, hfsm, hdone, herr, hcode, hbase, hlen, rfl⟩

/-- An edge with rst = 1 enters the reset state and one with rst = 0 leaves it. -/
theorem resetHeld_setRst (level : Bool) (s : State) : ResetHeld (setRst level s) := by
  cases level with
  | true => exact fun _ => ⟨rfl, rfl, rfl, rfl, rfl, rfl, rfl, rfl, rfl, rfl⟩
  | false => exact resetHeld_of_released rfl

theorem AccessEffect.keeps_rst (h : AccessEffect s t) : t.rst = s.rst := by
  cases h with
  | nothing | answer | clear | abort | start | base | length => rfl
  | reserved | startRefused | writeRefused => exact raiseErr_rst s _

/-- A turn changes the state only with the pin released, and leaves it released. -/
theorem TurnEffect.unchanged_or_released (h : TurnEffect s t) : t = s ∨ t.rst = false := by
  cases h with
  | waits | quiet => exact .inl rfl
  | load _ hr => exact .inr ((loadBlock_rst s).trans hr)
  | round _ hr => exact .inr ((roundStep_rst s _ _).trans hr)
  | finish _ hr => exact .inr hr

end Sys2Proof.Machine

namespace Sys2Proof.Proofs

open Sys2Proof.Machine Sys2Proof.Safety

/-- Settles O58: with rst = 1 an access is ignored and a turn does nothing, an edge enters the reset state or leaves it,
and the other moves touch nothing of it. -/
theorem stepKeepsResetHeld : Obligations.StepKeepsResetHeld := by
  intro s t hs hstep
  have hrest : ResetHeld s.rest := hs
  cases step_effect hstep with
  | access hr h => exact resetHeld_of_released (h.keeps_rst.trans hr)
  | ignored _ b => exact resetHeld_ignoreAccess b hrest
  | turn h =>
    obtain rfl | hr := h.unchanged_or_released
    · exact hrest
    · exact resetHeld_of_released hr
  | rst level => exact resetHeld_setRst level s.rest
  | memWrite | answer | port | portQuiet => exact hrest

/-- Settles O8: one clause for each move, with mem_req 0. -/
theorem accessesAndStepsIgnoredUnderReset : Obligations.AccessesAndStepsIgnoredUnderReset := by
  intro s l hr
  have hq := memReq_of_reset hr
  refine ⟨hq, fun w hin => ?_, fun hin => step_of_turn_under_reset (.inl hin) hr,
    fun hin => step_ack_of_no_memReq hin hq, fun hin => ?_⟩
  · rw [step_of_access_under_reset hin hr, ignoreAccess_howWe]
    rfl
  · rw [step_of_turn_under_reset (.inr ⟨hin, rfl⟩) hr, ← hin]

/-- Settles O9: the edge with rst = 1 is assertReset, whose fields are R40's values. -/
theorem environmentEdges : Obligations.EnvironmentEdges :=
  fun s l => ⟨step_of_rst, fun _ => step_of_answer, fun hin => ⟨assertReset { s with inputs := l }, step_of_rst hin,
    rfl, rfl, rfl, rfl, rfl, rfl, rfl, rfl, rfl, rfl, rfl, rfl, rfl, rfl, rfl⟩⟩

end Sys2Proof.Proofs
